-- ==== Sys2Proof/Word.lean ====
section
/-! DEFINITION. The value types of the Dealer3 ALFG engine (rules R6, R8, R11, R14, R46).
Arithmetic stands in Machine/Arith.lean, where a repair may mend it. -/

namespace Sys2Proof

/-- One state word: `W` = 64 bits (R6, R11, R12). A bit vector, read as signed only inside `asr64`. -/
abbrev Word := BitVec 64

/-- The seed operand of `INIT`: `SEEDW` = 32 bits, unsigned (R6, R49). -/
abbrev Seed := BitVec 32

/-- An output word: `OUTW` = 32 bits, unsigned (R6, R52). -/
abbrev OutWord := BitVec 32

/-- A command word: `CMDW` = 33 bits, format `C` (R6, R46). -/
abbrev CommandWord := BitVec 33

/-- A cursor value, which is also an index of the state table: a natural number below `DEG` = 31.
The spec lets a model give the cursors this type (R15, R80) and names it as the treatment of the
5-bit value 31 (U5). See notes/assumptions/2.md. -/
abbrev Cursor := Fin 31

/-- The state table `state[0] .. state[30]`: exactly 31 words, never resized (R11). -/
abbrev Table := Vector Word 31

end Sys2Proof
end

