-- ==== Sys2Proof/Syntax.lean ====
section
/-! DEFINITION. The commands of the engine (one constructor per row of spec/opcode_table.json), the
items of its assembly text (R53, R54) and what a host does with them (R120). -/

namespace Sys2Proof

/-- The engine's commands: the source's two operations, "the only API surface" (R10, R55). -/
inductive Instr where
  /-- `INIT seed` (R47, R56). Every 32-bit seed is legal. -/
  | init (seed : Seed)
  /-- `NEXT` (R48, R72). It has no operand (R49): the `arg` bits of its word are ignored. -/
  | next
deriving DecidableEq, Repr

/-- One item of a program's text (R53, R54). A literal is a natural number as the line spells it;
whether it is in range is the business of WellFormed. -/
inductive AsmItem where
  /-- `INIT <seed>`. -/
  | init (seed : Nat)
  /-- `NEXT`. -/
  | next
  /-- `RESEED <seed>`, a pseudo-instruction for `INIT <seed>`. -/
  | reseed (seed : Nat)
  /-- `NEXTS <n>`, a pseudo-instruction for `n` consecutive `NEXT`s. -/
  | nexts (n : Nat)
  /-- `.reset`: not a command, the host asserts `rst`. -/
  | reset
deriving DecidableEq, Repr

/-- What a host does to an engine, at the level of whole commands (R120). Observing `status`
changes nothing and is the function `ports`; stopping is the end of the list. -/
inductive HostAction where
  /-- Present a command word and take its response. -/
  | command (w : CommandWord)
  /-- Assert `rst`. -/
  | reset
  /-- Wait between commands. -/
  | wait
deriving DecidableEq, Repr

end Sys2Proof
end

