-- ==== Sys2Proof/WellFormed.lean ====
section
/-! DEFINITION. What is well formed: the seed range of a program line (R53), the canonical form of
a command word (R48), and commands, of which none is ill formed (R50). -/

namespace Sys2Proof

/-- A seed literal is in the range 0 to 4294967295; outside it the line is an assembly error and
there is no truncation (R53). -/
def seedInRange (n : Nat) : Bool := n ≤ 4294967295

/-- A program item is well formed when its seed literal, if it has one, is in range (R53, R54). -/
def AsmItem.wellFormed : AsmItem → Bool
  | .init n => seedInRange n
  | .next => true
  | .reseed n => seedInRange n
  | .nexts _ => true
  | .reset => true

/-- A command word is canonical when it is an `INIT` or its `arg` is 0; an assembler emits no
other (R48). The engine executes every word, canonical or not (R50). -/
def canonicalWord (w : CommandWord) : Bool := w.getLsbD 32 || w.extractLsb' 0 32 == 0#32

/-- Every command is well formed: all 2^32 seeds are legal (R47) and `NEXT` has no operand (R49). -/
def Instr.wellFormed : Instr → Bool
  | .init _ => true
  | .next => true

end Sys2Proof
end

