-- ==== Sys2Proof/Decode.lean ====
section
/-! DEFINITION. The decoder and the encoder of the 33-bit command word (R46 to R51, R55). -/

namespace Sys2Proof

/-- `cmd[32]`, the field `op` (R46). -/
def opField (w : CommandWord) : Bool := w.getLsbD 32

/-- `cmd[31:0]`, the field `arg` (R46). -/
def argField (w : CommandWord) : Seed := w.extractLsb' 0 32

/-- The decoder reads `cmd[32]` and nothing else to tell the operation (R46). It is total: every
33-bit word is a legal command (R50), and `SEEDED` does not change it (R51). -/
def decode (w : CommandWord) : Instr :=
  match opField w with
  | true => .init (argField w)
  | false => .next

/-- Why a number is not decoded. -/
inductive DecodeError where
  /-- The number has a bit above `cmd[32]`: it is no 33-bit command word (R46, R51). -/
  | widerThanCommandWord
deriving DecidableEq, Repr

/-- The command a number stands for, total on every number: a number that is not 33 bits wide is
rejected by name, and no number below 2^33 is. -/
def decodeNumber (n : Nat) : Except DecodeError Instr :=
  if n < 2 ^ 33 then .ok (decode (BitVec.ofNat 33 n)) else .error .widerThanCommandWord

/-- The word of a command: `INIT seed` is `1` followed by the seed (R47); `NEXT` is `0` followed by
its canonical `arg`, 0 (R48). -/
def encode : Instr → CommandWord
  | .init seed => 1#1 ++ seed
  | .next => 0#1 ++ 0#32

/-- The command whose bits are `w`, numbered as spec/opcode_table.json numbers them: one word of 33
bits, bit 0 its least significant. Every bit at or above `nbits` is 0, and a number with a bit
above 32 is no command word. -/
def decodeTableWord (nbits w : Nat) : Option Instr :=
  match decodeNumber (w % 2 ^ nbits) with
  | .ok i => some i
  | .error _ => none

end Sys2Proof
end

