-- ==== Sys2Proof/Config.lean ====
section
/-! DEFINITION. What an implementation of the engine fixes and the spec leaves open: the contents
of the table and of the cursors after hardware reset (R26, R111, U4: "any value", and the model
"must not hold them as zero in a way a proof could use"). Each is a free value: a constant with
no body, applied to the number of resets so far, so that every reset leaves fresh values.
The engine's parameters (R6) are fixed and stand in Machine/Params.lean. -/

namespace Sys2Proof.Config

/-- What word `i` of the table holds after the `n`-th reset. DESIGN CHOICE (notes/assumptions/1.md), a free value. -/
opaque resetWord : Nat → Cursor → Word

/-- What `front` holds after the `n`-th reset. DESIGN CHOICE (notes/assumptions/1.md), a free value. -/
opaque resetFront : Nat → Cursor

/-- What `rear` holds after the `n`-th reset. DESIGN CHOICE (notes/assumptions/1.md), a free value. -/
opaque resetRear : Nat → Cursor

end Sys2Proof.Config
end

