-- ==== Sys2Proof/Machine/State.lean ====
section
/-! DEFINITION. The state of one engine with its ports, the causes of its one exception, and the
state after reset. The architectural state is the table, the two cursors and the two flags (R11,
R14, R17, R18); `phase` is what the ports and the transaction protocol imply (R44, R45);
`inputs` and `resets` are the model's own (notes/assumptions/4.md and 1.md). -/

namespace Sys2Proof.Machine

/-- The reasons a step can stop the machine: none. The engine has no halt (R119), every command is
total (R84), and its one exception, `NotSeeded`, is a defined transition after which the engine
goes on (R98, R100), so nothing raises a fault. -/
inductive Fault where
deriving DecidableEq, Repr

/-- The reasons a step can give an instruction no meaning. -/
inductive Refusal where
  /-- Raised by `exec`'s arm of an instruction that has no meaning yet, and by nothing else. Safe: the
  model stops. No arm of this model raises it. -/
  | notModelled (mnemonic : String)
deriving DecidableEq, Repr

/-- The causes of an exception (R101): there is one. -/
inductive Cause where
  /-- `NotSeeded`: `NEXT` while `SEEDED` = 0 (R98). -/
  | notSeeded
deriving DecidableEq, Repr

/-- The response to one command, the pair (`rsp_fault`, `rsp_data`) (R52). -/
structure Response where
  fault : Bool
  data : OutWord
deriving DecidableEq, Repr

/-- Where the transaction protocol stands (R45). At most one command is in progress, by type. -/
inductive Phase where
  /-- No command in progress: `cmd_ready` = 1. -/
  | idle
  /-- A command was accepted and is in progress: `cmd_ready` = 0, no response yet. -/
  | executing (cmd : CommandWord)
  /-- The command has completed and its response is presented: `rsp_valid` = 1, and `cmd_ready` is
  raised only after it. -/
  | responding (r : Response)
deriving DecidableEq, Repr

/-- What the host drives on the input ports at one moment (R44). `clk` is left out: no rule depends
on it (R44, R118). -/
structure PortIn where
  rst : Bool
  cmdValid : Bool
  cmd : CommandWord
deriving DecidableEq, Repr

/-- The host drives nothing: it waits (R120). -/
def PortIn.idle : PortIn := { rst := false, cmdValid := false, cmd := 0#33 }

/-- The state. -/
structure State where
  /-- The state table `state[0] .. state[30]` (R11). -/
  table : Table
  /-- The front cursor (R14). -/
  front : Cursor
  /-- The rear cursor (R14). -/
  rear : Cursor
  /-- The flag `SEEDED` (R17). -/
  seeded : Bool
  /-- The sticky flag `FAULT` (R18). -/
  fault : Bool
  /-- Where the transaction protocol stands (R45). -/
  phase : Phase
  /-- What the host drives on the input ports, now and from now on, oldest first; when the list is
  used up the host waits (R120). The model's own field (notes/assumptions/4.md). -/
  inputs : List PortIn
  /-- How many times `rst` has been taken: the key of the free values that a reset leaves in the
  table and the cursors. The model's own field (notes/assumptions/1.md). -/
  resets : Nat
deriving DecidableEq, Repr

/-- The unspecified table that the `n`-th reset leaves (notes/assumptions/1.md). Marked irreducible, as
the loop bounds of Machine/Params.lean are: comparing two states never lays its 31 words out. -/
@[irreducible] def resetTable (n : Nat) : Table := Vector.ofFn (Config.resetWord n)

/-- The reset state (R26, R111): `SEEDED` = 0, `FAULT` = 0, no command in progress, and ready for a
command (R110). The table and the cursors are unspecified: they hold the free values of the `n`-th
reset (notes/assumptions/1.md). -/
def State.afterReset (n : Nat) (inputs : List PortIn) : State where
  table := resetTable n
  front := Config.resetFront n
  rear := Config.resetRear n
  seeded := false
  fault := false
  phase := .idle
  inputs := inputs
  resets := n

/-- The machine right after reset, with a host that drives nothing. -/
def State.reset : State := State.afterReset 0 []

end Sys2Proof.Machine
end

