-- ==== Sys2Proof/Machine/Flags.lean ====
section
/-! DEFINITION. The flags `SEEDED` and `FAULT` and the register `STATUS` (R17, R18, R21). There are
no condition codes: no arithmetic result writes a flag (R19). -/

namespace Sys2Proof.Machine

/-- `SEEDED <- 1` (R17, R56). Only hardware reset clears it. -/
def setSeeded (s : State) : State := { s with seeded := true }

/-- `FAULT <- 1` (R18, R98). Only hardware reset clears it. -/
def setFault (s : State) : State := { s with fault := true }

/-- `STATUS`: bit 0 is `SEEDED`, bit 1 is `FAULT`, read-only, no reserved field (R21). -/
def status (s : State) : BitVec 2 := BitVec.ofBool s.fault ++ BitVec.ofBool s.seeded

end Sys2Proof.Machine
end

