-- ==== Sys2Proof/Machine/Params.lean ====
section
/-! DEFINITION. The engine's fixed parameters (R6, R25). The widths `W`, `SEEDW`, `OUTW`, `CMDW`
and the degree 31 that types use stand in Word.lean. The two loop bounds are marked irreducible, so
that Lean's elaborator never runs a loop of `INIT` while it compares two states; the kernel still
evaluates them, and `deg_eq` and `warmup_eq` rewrite them. -/

namespace Sys2Proof.Machine

/-- `DEG`, the number of words in the state table (R6). -/
@[irreducible] def deg : Nat := 31

theorem deg_eq : deg = 31 := by rw [deg]

/-- `SEP`, the distance between the cursors (R6). -/
def sep : Cursor := 3

/-- `MULT`, the multiplier of the expansion recurrence, 1103515145 = 0x41C64E09, digit for digit (R6, R58). -/
def mult : Word := 1103515145#64

/-- `INC`, the additive constant of the expansion recurrence, 12345 (R6, R58). -/
def inc : Word := 12345#64

/-- `FRONT0`, the front cursor value that `INIT` sets (R6, R59). -/
def front0 : Cursor := 3

/-- `REAR0`, the rear cursor value that `INIT` sets (R6, R59). -/
def rear0 : Cursor := 0

/-- `WARMUP`, the number of discarded steps inside `INIT` (R6, R60). -/
@[irreducible] def warmup : Nat := 310

theorem warmup_eq : warmup = 310 := by rw [warmup]

/-- `OUT_MASK`: 31 one-bits. The source's other literal, 0x7FFFFFFFFFFFFFFF, loses
(R6, R67, spec/90_conflicts.md C1, D21). -/
def outMask : Word := 0x000000007FFFFFFF#64

end Sys2Proof.Machine
end

