-- ==== Sys2Proof/Machine/Arith.lean ====
section
/-! DEFINITION. The arithmetic primitives (R9, R76 to R82). All arithmetic on words is modulo 2^64
and silent: no primitive records a carry or an overflow (R19, R76). -/

namespace Sys2Proof.Machine

/-- `add64(a, b)`: addition modulo 2^64, carry out of bit 63 discarded (R76). -/
def add64 (a b : Word) : Word := a + b

/-- `mul64(a, b)`: the low 64 bits of the product (R77). -/
def mul64 (a b : Word) : Word := a * b

/-- `asr64(v, 1)` = `{v[63], v[63:1]}`: the arithmetic right shift by one, the only shift amount the
engine has (R66, R78). -/
def asr64 (v : Word) : Word := v.extractLsb' 63 1 ++ v.extractLsb' 1 63

/-- `and64(a, b)`: bitwise AND (R79). -/
def and64 (a b : Word) : Word := a &&& b

/-- `trunc32(v)` = `v[31:0]` (R79). -/
def trunc32 (v : Word) : OutWord := v.extractLsb' 0 32

/-- `zext_64(x)` of a 32-bit `x` = `{0x00000000, x}` (R79). -/
def zext64 (x : Seed) : Word := 0#32 ++ x

/-- `inc31(c)`: compare with 30, then select 0 or `c + 1` (R68, R80). -/
def inc31 (c : Cursor) : Cursor := if c = 30 then 0 else c + 1

/-- One turn of the expansion recurrence, `add64(mul64(x, MULT), INC)` (R58). -/
def lcg (x : Word) : Word := add64 (mul64 x mult) inc

/-- Steps 2, 3 and 5 of `Step()`: from the sum to the returned word (R66, R67, R69). -/
def outputOf (sum : Word) : OutWord := trunc32 (and64 (asr64 sum) outMask)

end Sys2Proof.Machine
end

