-- ==== Sys2Proof/Machine/Operands.lean ====
section
/-! DEFINITION. Every operand form of the engine: the seed of `INIT` (R49), a table word at a
constant or loop index (R31), and a table word selected by a cursor, with the post-increment of
both cursors (R31). -/

namespace Sys2Proof.Machine

/-- `state[i]` (R9): a whole 64-bit word; reading changes nothing (R35). -/
def readWord (s : State) (i : Cursor) : Word := s.table[i.val]

/-- `state[i] <- v` (R9): all 64 bits of one word (R35). -/
def writeWord (s : State) (i : Cursor) (v : Word) : State := { s with table := s.table.set i.val v }

/-- The table index of a loop counter `i` of the expansion, 0 to 30 (R31). -/
def loopIndex (i : Nat) : Cursor := Fin.ofNat 31 i

/-- The seed as it is written to `state[0]`: zero-extended, not sign-extended (R49, R57). -/
def seedOperand (seed : Seed) : Word := zext64 seed

/-- `state[front]` (R31). -/
def frontOperand (s : State) : Word := readWord s s.front

/-- `state[rear]` (R31). -/
def rearOperand (s : State) : Word := readWord s s.rear

/-- `front <- f`, `rear <- r` (R9, R59). -/
def setCursors (f r : Cursor) (s : State) : State := { s with front := f, rear := r }

/-- The post-increment: both cursors always advance by one position, each wrapping on its own (R68). -/
def advanceCursors (s : State) : State := setCursors (inc31 s.front) (inc31 s.rear) s

end Sys2Proof.Machine
end

