-- ==== Sys2Proof/Machine/Ops.lean ====
section
/-! DEFINITION. The operations that the commands and the ports share: the micro-operation `Step()`,
driving a response, taking the exception `NotSeeded`, and hardware reset. There is no return from
an exception to stand beside its entry: nothing is saved and nothing is restored (R104, R105). -/

namespace Sys2Proof.Machine

/-- `respond(f, d)`: drives the response to the current command (R9, R52). -/
def respond (f : Bool) (d : OutWord) (s : State) : State := { s with phase := .responding { fault := f, data := d } }

/-- The micro-operation `Step()` (R64): the state it leaves and the word it returns. The output comes
from the new value of `state[front]`, and the cursors advance after the table write (R70). -/
def genStep (s : State) : State × OutWord :=
  let a := frontOperand s
  let b := rearOperand s
  let sum := add64 a b
  (advanceCursors (writeWord s s.front sum), outputOf sum)

/-- `n` steps whose words are discarded (R60). -/
def discardSteps : Nat → State → State
  | 0, s => s
  | n + 1, s => discardSteps n (genStep s).1

/-- The cause code (R101). Code 0 means "no fault". -/
def causeCode : Cause → Nat
  | .notSeeded => 1

/-- The cause code a response reports: `NotSeeded` when `rsp_fault` = 1, else 0 (R98, R101). -/
def reportedCode (r : Response) : Nat := if r.fault then causeCode .notSeeded else 0

/-- Taking an exception (R98, R104): `FAULT <- 1`, the response is a fault with data 0, and that is
all. Nothing is saved, control goes nowhere, and the cause is told by `rsp_fault` alone. -/
def takeException (c : Cause) (s : State) : State := respond (causeCode c != 0) 0#32 (setFault s)

/-- Hardware reset by the pin `rst` (R110, R111): a command in progress is abandoned without a
response (R103), and the flags are cleared. The table and the cursors are unspecified again. -/
def takeReset (s : State) : State := State.afterReset (s.resets + 1) s.inputs

/-- A command is accepted: it is in progress until its response (R45). -/
def acceptCommand (w : CommandWord) (s : State) : State := { s with phase := .executing w }

/-- The response has been taken; the engine is ready again (R45). -/
def finishCommand (s : State) : State := { s with phase := .idle }

/-- What the host drives on the input ports now (R44, R120). -/
def currentInput (s : State) : PortIn := s.inputs.head?.getD PortIn.idle

/-- The present input has been seen: the next one is at the ports. -/
def nextInput (s : State) : State := { s with inputs := s.inputs.tail }

end Sys2Proof.Machine
end

