-- ==== Sys2Proof/Machine/Generator.lean ====
section
/-! DEFINITION. The generator: the command `NEXT` (R72). Its step is `genStep` of Machine/Ops.lean. -/

namespace Sys2Proof.Machine

/-- `NEXT` (R72): with `SEEDED` = 1 one step, answered with its word; with `SEEDED` = 0 the exception
`NotSeeded`, before any other effect (R98, R103), so that no word of an unseeded table is ever
returned (R99). -/
def execNext (s : State) : Host.Outcome State Fault Refusal :=
  match s.seeded with
  | true => .next (respond false (genStep s).2 (genStep s).1)
  | false => .next (takeException .notSeeded s)

end Sys2Proof.Machine
end

