-- ==== Sys2Proof/Machine/SeedInitializer.lean ====
section
/-! DEFINITION. The seed initializer: the command `INIT` (R56 to R63). -/

namespace Sys2Proof.Machine

/-- Step 1, seed load: `state[0] <- zext_64(seed)` (R57). -/
def loadSeed (seed : Seed) (s : State) : State := writeWord s (loopIndex 0) (seedOperand seed)

/-- Step 2, the expansion for `i = 1 .. n`: `state[i]` is computed from the full `state[i-1]` just
written (R58). -/
def expandUpTo : Nat → State → State
  | 0, s => s
  | n + 1, s =>
    let t := expandUpTo n s
    writeWord t (loopIndex (n + 1)) (lcg (readWord t (loopIndex n)))

/-- Steps 1 and 2: the table filled from the seed (R57, R58). -/
def expand (seed : Seed) (s : State) : State := expandUpTo (deg - 1) (loadSeed seed s)

/-- Steps 1 to 4 (R57 to R60): expansion, cursors, 310 discarded steps. -/
def seedTable (seed : Seed) (s : State) : State := discardSteps warmup (setCursors front0 rear0 (expand seed s))

/-- `INIT seed` (R56). It never faults, in any state, and leaves `FAULT` as it is. -/
def execInit (seed : Seed) (s : State) : Host.Outcome State Fault Refusal :=
  .next (respond false 0#32 (setSeeded (seedTable seed s)))

end Sys2Proof.Machine
end

