-- ==== Sys2Proof/Machine/Dispatch.lean ====
section
/-! DEFINITION. The meaning of every command: one arm per constructor (R55). -/

namespace Sys2Proof.Machine

/-- The execution of one command as one atomic transition (R37): the state it leaves holds its
response in `phase`, so that this is the spec's `Exec : State × Command -> State × Response` (R45). -/
def exec (i : Instr) (s : State) : Host.Outcome State Fault Refusal :=
  match i with
  | .init seed => Sys2Proof.Machine.execInit seed s
  | .next => Sys2Proof.Machine.execNext s

end Sys2Proof.Machine
end

