-- ==== Sys2Proof/Machine/Ports.lean ====
section
/-! DEFINITION. The engine's output ports (R44), a function of its state and of `rst`. -/

namespace Sys2Proof.Machine

/-- What the engine drives. `rsp` is `none` when `rsp_valid` = 0: the spec gives `rsp_fault` and
`rsp_data` no value then (notes/assumptions/6.md). -/
structure PortOut where
  cmdReady : Bool
  rsp : Option Response
  status : BitVec 2
deriving DecidableEq, Repr

/-- `cmd_ready`: no command is in progress, no response is being presented, and `rst` is not
asserted (R44, R45, R110). -/
def cmdReady (s : State) : Bool := !(currentInput s).rst && s.phase == .idle

/-- The response presented: `rsp_valid` is 0 while `rst` is asserted (R45, R110). -/
def presented (s : State) : Option Response :=
  match s.phase with
  | .responding r => if (currentInput s).rst then none else some r
  | .idle => none
  | .executing _ => none

/-- `rsp_valid` (R44). -/
def rspValid (s : State) : Bool := (presented s).isSome

/-- All output ports; `status` is driven continuously (R21). -/
def ports (s : State) : PortOut := { cmdReady := cmdReady s, rsp := presented s, status := status s }

end Sys2Proof.Machine
end

