-- ==== Sys2Proof/Machine/Step.lean ====
section
/-! DEFINITION. One step of the engine with its ports. The engine has no program counter and fetches
nothing (R20): commands come over the command port, and a step is one event of the transaction
protocol (R45). -/

namespace Sys2Proof.Machine

/-- One step, with what the host drives now. Reset wins over everything (R103, R110). Otherwise an
idle engine accepts the command at its port if there is one (R45) and else holds its state (R108);
a command in progress executes to completion as one atomic transition and its response is
presented (R37, R45); a response is taken and the engine is ready again (R45). A command at the
port while one is in progress is not accepted (R114). -/
def step (s : State) : Host.Outcome State Fault Refusal :=
  let inp := currentInput s
  let s' := nextInput s
  match inp.rst with
  | true => .next (takeReset s')
  | false =>
    match s.phase with
    | .idle =>
      match inp.cmdValid with
      | true => .next (acceptCommand inp.cmd s')
      | false => .next s'
    | .executing w => exec (decode w) s'
    | .responding _ => .next (finishCommand s')

/-- The state `s` with the command whose bits are `w` accepted and in progress, and `rst` not
asserted at this moment, so that the very next step executes it (notes/assumptions/4.md). -/
def State.withFetchWord (s : State) (nbits w : Nat) : State :=
  { s with
    phase := .executing (BitVec.ofNat 33 (w % 2 ^ nbits))
    inputs := match s.inputs with
      | [] => []
      | p :: ps => { p with rst := false } :: ps }

end Sys2Proof.Machine
end

