-- ==== Sys2Proof/Machine/Assembly.lean ====
section
/-! DEFINITION. The assembly syntax (R53), the pseudo-instructions (R54) and the disassembler (R54).
A line is a list of characters without its line end. -/

namespace Sys2Proof.Machine

/-- Why a line is an assembly error. -/
inductive AsmError where
  /-- The first word of the line is no mnemonic, pseudo-instruction or directive (R53, R54). -/
  | unknownMnemonic
  /-- The item has too few or too many operands (R53, R54). -/
  | wrongOperandCount
  /-- The operand is no unsigned literal of the form the item takes (R53, R54). -/
  | badLiteral
  /-- The seed is outside 0 to 4294967295 (R53). -/
  | seedOutOfRange
deriving DecidableEq, Repr

/-- The part of a line before its comment (R53). -/
def beforeComment (line : List Char) : List Char := line.takeWhile (· ≠ '#')

/-- What separates the words of a line. -/
def isSpace (c : Char) : Bool := c == ' ' || c == '\t' || c == '\r'

/-- A word of the line that has been read in full, if there is one; `acc` holds it backwards. -/
def finishWord (acc : List Char) : List (List Char) := if acc.isEmpty then [] else [acc.reverse]

/-- The words of a line; `acc` holds the one being read, backwards. -/
def splitWords : List Char → List Char → List (List Char)
  | [], acc => finishWord acc
  | c :: cs, acc => if isSpace c then finishWord acc ++ splitWords cs [] else splitWords cs (c :: acc)

/-- The upper-case letter of a letter. -/
def upperCase (c : Char) : Char := if 97 ≤ c.toNat ∧ c.toNat ≤ 122 then Char.ofNat (c.toNat - 32) else c

/-- The value of a decimal digit. -/
def decimalDigit (c : Char) : Option Nat :=
  if 48 ≤ c.toNat ∧ c.toNat ≤ 57 then some (c.toNat - 48) else none

/-- The value of a hexadecimal digit, in either case. -/
def hexDigit (c : Char) : Option Nat :=
  if 48 ≤ c.toNat ∧ c.toNat ≤ 57 then some (c.toNat - 48)
  else if 65 ≤ c.toNat ∧ c.toNat ≤ 70 then some (c.toNat - 55)
  else if 97 ≤ c.toNat ∧ c.toNat ≤ 102 then some (c.toNat - 87)
  else none

/-- The number that digits spell after the value `n` of those before them. -/
def readDigits (base : Nat) (digit : Char → Option Nat) : List Char → Nat → Option Nat
  | [], n => some n
  | c :: cs, n =>
    match digit c with
    | some d => readDigits base digit cs (n * base + d)
    | none => none

/-- A decimal integer of one digit or more. -/
def readDecimal : List Char → Option Nat
  | [] => none
  | c :: cs => readDigits 10 decimalDigit (c :: cs) 0

/-- A hexadecimal integer of one digit or more, without its prefix. -/
def readHex : List Char → Option Nat
  | [] => none
  | c :: cs => readDigits 16 hexDigit (c :: cs) 0

/-- A seed literal: decimal, or hexadecimal with prefix `0x` (R53). -/
def readSeed : List Char → Option Nat
  | '0' :: 'x' :: cs => readHex cs
  | cs => readDecimal cs

/-- The items of the syntax, by their first word (R53, R54). -/
inductive Keyword where
  | init
  | next
  | reseed
  | nexts
  | reset
deriving DecidableEq, Repr

/-- The keyword a word spells. Mnemonics are upper case and this assembler accepts lower case too, as
R53 allows (notes/assumptions/7.md); the directive is spelled as R53 prints it. -/
def keyword (w : List Char) : Option Keyword :=
  if w.map upperCase = ['I', 'N', 'I', 'T'] then some .init
  else if w.map upperCase = ['N', 'E', 'X', 'T'] then some .next
  else if w.map upperCase = ['R', 'E', 'S', 'E', 'E', 'D'] then some .reseed
  else if w.map upperCase = ['N', 'E', 'X', 'T', 'S'] then some .nexts
  else if w = ['.', 'r', 'e', 's', 'e', 't'] then some .reset
  else none

/-- The item of an item's keyword and operands (R53, R54). -/
def parseItem (k : Keyword) (operands : List (List Char)) : Except AsmError AsmItem :=
  match k, operands with
  | .next, [] => .ok .next
  | .reset, [] => .ok .reset
  | .init, [x] => match readSeed x with | some n => .ok (.init n) | none => .error .badLiteral
  | .reseed, [x] => match readSeed x with | some n => .ok (.reseed n) | none => .error .badLiteral
  | .nexts, [x] => match readDecimal x with | some n => .ok (.nexts n) | none => .error .badLiteral
  | _, _ => .error .wrongOperandCount

/-- The item of a line, if it holds one; blank lines and comments are ignored (R53). -/
def parseLine (line : List Char) : Except AsmError (Option AsmItem) :=
  match splitWords (beforeComment line) [] with
  | [] => .ok none
  | w :: operands =>
    match keyword w with
    | none => .error .unknownMnemonic
    | some k => match parseItem k operands with | .ok it => .ok (some it) | .error e => .error e

/-- What an item expands to (R53, R54). A seed out of range is an error; there is no truncation. -/
def assembleItem : AsmItem → Except AsmError (List HostAction)
  | .init n => if seedInRange n then .ok [.command (encode (.init (BitVec.ofNat 32 n)))] else .error .seedOutOfRange
  | .reseed n => if seedInRange n then .ok [.command (encode (.init (BitVec.ofNat 32 n)))] else .error .seedOutOfRange
  | .next => .ok [.command (encode .next)]
  | .nexts n => .ok (List.replicate n (.command (encode .next)))
  | .reset => .ok [.reset]

/-- What a line expands to. -/
def assembleLine (line : List Char) : Except AsmError (List HostAction) :=
  match parseLine line with
  | .ok (some it) => assembleItem it
  | .ok none => .ok []
  | .error e => .error e

/-- What a program expands to, line by line (R53). -/
def assembleProgram : List (List Char) → Except AsmError (List HostAction)
  | [] => .ok []
  | line :: lines =>
    match assembleLine line with
    | .error e => .error e
    | .ok actions =>
      match assembleProgram lines with
      | .error e => .error e
      | .ok more => .ok (actions ++ more)

/-- The character of a decimal digit. -/
def digitChar (d : Nat) : Char := Char.ofNat (48 + d)

/-- The decimal digits of `n`, most significant first, at most `k` of them. -/
def decimalDigits : Nat → Nat → List Char
  | 0, _ => []
  | k + 1, n => if n < 10 then [digitChar n] else decimalDigits k (n / 10) ++ [digitChar (n % 10)]

/-- The seed of an `INIT` in decimal: ten digits hold every 32-bit number (R54). -/
def printSeed (seed : Seed) : List Char := decimalDigits 10 seed.toNat

/-- The disassembler: `INIT <seed>` with the seed in decimal, and `NEXT` for every word with
`cmd[32] = 0` (R54). -/
def disassemble (w : CommandWord) : List Char :=
  match decode w with
  | .init seed => ['I', 'N', 'I', 'T', ' '] ++ printSeed seed
  | .next => ['N', 'E', 'X', 'T']

end Sys2Proof.Machine
end

