-- ==== Sys2Proof/Machine/System.lean ====
section
/-! DEFINITION. Any number of engines (R109): each is a complete, separate copy of the state with its
own ports. They have no identifiers of their own; the position in the list is the model's. -/

namespace Sys2Proof.Machine

/-- A system of engines. -/
structure System where
  engines : List State
deriving DecidableEq, Repr

/-- One step of engine `k`; where there is no such engine nothing happens. Engines share nothing and
no order is defined between them (R42), so which engine steps is the caller's choice. -/
def System.stepEngine (k : Nat) (sys : System) : Host.Outcome System Fault Refusal :=
  match sys.engines[k]? with
  | none => .next sys
  | some s =>
    match step s with
    | .next t => .next { engines := sys.engines.set k t }
    | .fault f => .fault f
    | .refused r => .refused r

end Sys2Proof.Machine
end

