-- ==== Sys2Proof/Machine/Run.lean ====
section
/-! DEFINITION. Runs: a sequence of commands executed one after another (R38), a sequence of host
actions at the level of whole commands (R119, R120), and the same actions driven on the ports. -/

namespace Sys2Proof.Machine

/-- The state after a sequence of commands, each one's transition applied to the state the one
before it left (R38). -/
def runInstrs : List Instr → State → Host.Outcome State Fault Refusal
  | [], s => .next s
  | i :: is, s =>
    match exec i s with
    | .next t => runInstrs is t
    | .fault f => .fault f
    | .refused r => .refused r

/-- The response that a completed command drives. -/
def responseOf (s : State) : List Response :=
  match s.phase with
  | .responding r => [r]
  | .idle => []
  | .executing _ => []

/-- The responses to a sequence of commands, in order (R38, R119). -/
def responses : List Instr → State → List Response
  | [], _ => []
  | i :: is, s =>
    match exec i s with
    | .next t => responseOf t ++ responses is t
    | .fault _ => []
    | .refused _ => []

/-- One host action at the level of whole commands (R120): a command is executed and its response
taken, `rst` resets the engine, waiting changes nothing. -/
def runAction (a : HostAction) (s : State) : Host.Outcome State Fault Refusal :=
  match a with
  | .command w =>
    match exec (decode w) s with
    | .next t => .next (finishCommand t)
    | .fault f => .fault f
    | .refused r => .refused r
  | .reset => .next (takeReset s)
  | .wait => .next s

/-- The response to one host action, if it gets one (R120). -/
def answer (a : HostAction) (s : State) : List Response :=
  match a with
  | .command w => responses [decode w] s
  | .reset => []
  | .wait => []

/-- The state after a sequence of host actions. -/
def runActions : List HostAction → State → Host.Outcome State Fault Refusal
  | [], s => .next s
  | a :: as, s =>
    match runAction a s with
    | .next t => runActions as t
    | .fault f => .fault f
    | .refused r => .refused r

/-- The responses to a sequence of host actions, in order (R119). -/
def answers : List HostAction → State → List Response
  | [], _ => []
  | a :: as, s =>
    match runAction a s with
    | .next t => answer a s ++ answers as t
    | .fault _ => []
    | .refused _ => []

/-- What a host drives on the ports to do one action: a command is presented until it is accepted,
and then the host waits for its response and takes it (R45, R120). -/
def drive : HostAction → List PortIn
  | .command w => [{ rst := false, cmdValid := true, cmd := w }, PortIn.idle, PortIn.idle]
  | .reset => [{ rst := true, cmdValid := false, cmd := 0#33 }]
  | .wait => [PortIn.idle]

/-- What a host drives on the ports to do a sequence of actions. -/
def driveAll (as : List HostAction) : List PortIn := as.flatMap drive

/-- `k` steps of the engine with its ports, stopping at the first outcome that is no next state. -/
def runSteps : Nat → State → Host.Outcome State Fault Refusal
  | 0, s => .next s
  | k + 1, s =>
    match step s with
    | .next t => runSteps k t
    | .fault f => .fault f
    | .refused r => .refused r

/-- The responses that appear on the response port in `k` steps. -/
def observed : Nat → State → List Response
  | 0, _ => []
  | k + 1, s =>
    match step s with
    | .next t => (presented t).toList ++ observed k t
    | .fault _ => []
    | .refused _ => []

end Sys2Proof.Machine
end

