-- ==== Sys2Proof/Safety.lean ====
section
/-! DEFINITION. The terms that statements use: the invariant of a step, a run without a recorded
fault, the lagged-Fibonacci sequence of a seed, and agreement of two states on their low halves. -/

namespace Sys2Proof.Machine

/-- The separation invariant (R16, R96): `(front - rear) mod 31 = 3`. Subtraction of cursors is modulo 31. -/
def Separated (s : State) : Prop := s.front - s.rear = sep

/-- A presented response is as R52 says: a fault exactly when the engine is not seeded, then with data
0 and `FAULT` recorded, and a word of at most 2^31 - 1. -/
def ResponseSound (s : State) : Prop :=
  ∀ r, s.phase = .responding r →
    r.fault = !s.seeded ∧ (r.fault = true → r.data = 0#32 ∧ s.fault = true) ∧ r.data.toNat ≤ 2147483647

/-- The invariant of the engine: a seeded engine's cursors are three apart, and what it presents is sound. -/
def Inv (s : State) : Prop := (s.seeded = true → Separated s) ∧ ResponseSound s

/-- A run that ends here recorded no fault: the premise that a claim about a run takes (R100). -/
def NoFaultRecorded (s : State) : Prop := s.fault = false

/-- `y` is the sequence of values of R91 for a seed: the expansion, the second names of its first three
words, and then the sum of the values 31 and 3 places before. -/
def IsLagged (seed : Seed) (y : Nat → Word) : Prop :=
  y 0 = zext64 seed ∧ (∀ j < 30, y (j + 1) = y j * 1103515145#64 + 12345#64) ∧
  (∀ j < 3, y (31 + j) = y j) ∧ ∀ n, 34 ≤ n → y n = y (n - 31) + y (n - 3)

/-- Two states hold the same table, cursors and `SEEDED`: all that a command reads (R27, R73). -/
def SameGenerator (s t : State) : Prop :=
  s.table = t.table ∧ s.front = t.front ∧ s.rear = t.rear ∧ s.seeded = t.seeded

/-- Two states agree on everything but the high halves of the table words, the ports' inputs and the
reset count (R86). -/
def SameLowHalves (s t : State) : Prop :=
  (∀ i, (readWord s i).extractLsb' 0 32 = (readWord t i).extractLsb' 0 32) ∧
  s.front = t.front ∧ s.rear = t.rear ∧ s.seeded = t.seeded ∧ s.fault = t.fault

end Sys2Proof.Machine
end

