-- ==== Sys2Proof/Certificates/Slice0/Obligations.lean ====
section
/-! DEFINITION. The statements for the provers, in the order of OBLIGATIONS.json. Each docstring names
the rules of spec/ that its statement comes from; where the spec marks a rule as its own inference
([derived: ...]) or the statement rests on a log entry, the docstring says so. No statement rests on
a value of Config.resetWord, Config.resetFront or Config.resetRear, or on the reset count. -/

open Sys2Proof Sys2Proof.Machine

/-! ### Encoding (R46 to R55) -/

/-- The command words of the spec's encoding vectors decode as listed there (95_test_vectors.md V10; R47, R48). -/
def Obligations.EncodingVectorsDecode : Prop :=
  decode 0x100000001#33 = .init 1#32 ∧ decode 0x100000000#33 = .init 0#32 ∧
  decode 0x1FFFFFFFF#33 = .init 4294967295#32 ∧ decode 0x180000000#33 = .init 2147483648#32 ∧
  decode 0x1DEADBEEF#33 = .init 3735928559#32 ∧ decode 0x000000000#33 = .next ∧
  decode 0x000000001#33 = .next ∧ decode 0x0FFFFFFFF#33 = .next ∧ decode 0x0DEADBEEF#33 = .next

/-- Decode and encode agree: decoding a command's word gives the command back, and encoding what a canonical
word decodes to gives the word back (R47, R48, R50, R55). -/
def Obligations.DecodeAndEncodeAgree : Prop :=
  (∀ i : Instr, decode (encode i) = i) ∧
  (∀ w : CommandWord, canonicalWord w = true → encode (decode w) = w)

/-- R47: `INIT seed` is `cmd = {1, seed[31:0]}`, with the rule's mask, match, field and examples, and
every value of the field is an `INIT` of that seed. -/
def Obligations.InitEncoding : Prop :=
  (∀ seed : Seed, encode (.init seed) = 1#1 ++ seed ∧ encode (.init seed) &&& 0x100000000#33 = 0x100000000#33 ∧
    (encode (.init seed)).extractLsb' 0 32 = seed ∧ decode (1#1 ++ seed) = .init seed) ∧
  encode (.init 1#32) = 0x100000001#33 ∧ encode (.init 0#32) = 0x100000000#33 ∧
  encode (.init 4294967295#32) = 0x1FFFFFFFF#33

/-- R48: `NEXT` is `cmd = {0, arg}`; its canonical word, the only one an assembler emits, is 0; and every
word with `cmd[32] = 0` executes as `NEXT`, with the same effect and the same response. -/
def Obligations.NextIgnoresArg : Prop :=
  (∀ arg : BitVec 32, decode (0#1 ++ arg) = .next) ∧ encode .next = 0#33 ∧
  assembleItem .next = .ok [.command 0#33] ∧
  ∀ w : CommandWord, w &&& 0x100000000#33 = 0#33 →
    decode w = .next ∧
    ∀ s : State, s.phase = .executing w → step s = step { s with phase := .executing 0#33 }

/-- The decoder reads `cmd[32]` and is total on command words (R46, R50); a number is decoded exactly when
it is a 33-bit word (the model's convention, notes/assumptions/5.md). -/
def Obligations.DecoderReadsBit32 : Prop :=
  (∀ w : CommandWord, w.getLsbD 32 = true → decode w = .init (w.extractLsb' 0 32)) ∧
  (∀ w : CommandWord, w.getLsbD 32 = false → decode w = .next) ∧
  (∀ w : CommandWord, decodeNumber w.toNat = .ok (decode w)) ∧
  (∀ n : Nat, 2 ^ 33 ≤ n → decodeNumber n = .error .widerThanCommandWord)

/-! ### Assembly syntax (R53, R54) -/

/-- Assembling what the disassembler prints gives the canonical word of the command (R53, R54), for every
command word: decimal printing and reading agree on every seed. The assembler is that of
notes/assumptions/7.md. -/
def Obligations.AssemblyOfDisassembly : Prop :=
  ∀ w : CommandWord, assembleLine (disassemble w) = .ok [.command (encode (decode w))]

/-- An item assembles exactly when its seed is in range; out of range is an error, without truncation (R53). -/
def Obligations.SeedOutOfRangeIsAnError : Prop :=
  (∀ it : AsmItem, it.wellFormed = true → ∃ as, assembleItem it = .ok as) ∧
  (∀ it : AsmItem, it.wellFormed = false → assembleItem it = .error .seedOutOfRange) ∧
  ∀ n : Nat, n ≤ 4294967295 → assembleItem (.init n) = .ok [.command (0x100000000#33 + BitVec.ofNat 33 n)]

/-- `RESEED n` is `INIT n`, and `NEXTS n` is `n` consecutive `NEXT`s, none for `n = 0` (R54). -/
def Obligations.PseudoInstructionsExpand : Prop :=
  (∀ n : Nat, assembleItem (.reseed n) = assembleItem (.init n)) ∧
  (∀ n : Nat, assembleItem (.nexts n) = .ok (List.replicate n (.command 0x000000000#33)))

/-! ### Arithmetic (R76 to R81) -/

/-- R76 and R77: `add64` and `mul64` are modulo 2^64 on the unsigned values, with the corner cases the
rules list. -/
def Obligations.AddAndMulWrapModulo2Pow64 : Prop :=
  (∀ a b : Word, (add64 a b).toNat = (a.toNat + b.toNat) % 2 ^ 64) ∧
  (∀ a b : Word, (mul64 a b).toNat = (a.toNat * b.toNat) % 2 ^ 64) ∧
  add64 0xFFFFFFFFFFFFFFFF#64 1#64 = 0#64 ∧ add64 0x7FFFFFFFFFFFFFFF#64 1#64 = 0x8000000000000000#64 ∧
  add64 0x8000000000000000#64 0x8000000000000000#64 = 0#64 ∧ (∀ x : Word, add64 x 0#64 = x) ∧
  mul64 0#64 1103515145#64 = 0#64 ∧ mul64 1#64 1103515145#64 = 0x0000000041C64E09#64 ∧
  mul64 0xFFFFFFFFFFFFFFFF#64 1103515145#64 = 0xFFFFFFFFBE39B1F7#64 ∧
  mul64 0x8000000000000000#64 1103515145#64 = 0x8000000000000000#64 ∧
  mul64 0x0000000100000000#64 1103515145#64 = 0x41C64E0900000000#64

/-- The signed reading of the operands gives the same bits: the signed result is the exact signed sum or
product, reduced modulo 2^64 into the signed range (R81, the spec's own inference from R76 and R77). -/
def Obligations.SignedReadingGivesTheSameBits : Prop :=
  (∀ a b : Word, (add64 a b).toInt = (a.toInt + b.toInt).bmod (2 ^ 64)) ∧
  (∀ a b : Word, (mul64 a b).toInt = (a.toInt * b.toInt).bmod (2 ^ 64))

/-- R78: every bit moves one place toward bit 0, bit 63 is copied, and as integers the result is the
floor of half the signed value. -/
def Obligations.ArithmeticShiftHalvesTheSignedValue : Prop :=
  ∀ v : Word, (∀ j < 63, (asr64 v).getLsbD j = v.getLsbD (j + 1)) ∧ (asr64 v).getLsbD 63 = v.getLsbD 63 ∧
    2 * (asr64 v).toInt ≤ v.toInt ∧ v.toInt < 2 * (asr64 v).toInt + 2

/-- R79: the mask is a bitwise AND, truncation drops bits 63:32 and loses nothing after the mask, and
`zext_64` is `{0x00000000, x}`. -/
def Obligations.MaskAndTruncationAreLossless : Prop :=
  (∀ (a b : Word) (j : Nat), (and64 a b).getLsbD j = (a.getLsbD j && b.getLsbD j)) ∧
  (∀ v : Word, (trunc32 v).toNat = v.toNat % 2 ^ 32) ∧
  (∀ x : Seed, zext64 x = 0x00000000#32 ++ x ∧ (zext64 x).toNat = x.toNat) ∧
  outMask = 0x000000007FFFFFFF#64 ∧
  (∀ v : Word, (and64 v outMask).toNat < 2 ^ 31 ∧ (trunc32 (and64 v outMask)).toNat = (and64 v outMask).toNat)

/-- R80: `inc31` is 0 at 30 and `c + 1` elsewhere, equals `(c + 1) mod 31`, is a bijection, and 31 of them
are the identity. -/
def Obligations.CursorIncrementIsModulo31 : Prop :=
  (∀ c : Cursor, c.val = 30 → inc31 c = 0) ∧ (∀ c : Cursor, c.val ≠ 30 → (inc31 c).val = c.val + 1) ∧
  (∀ c : Cursor, (inc31 c).val = (c.val + 1) % 31) ∧ Function.Bijective inc31 ∧ ∀ c : Cursor, inc31^[31] c = c

/-! ### The step (R64 to R71) -/

/-- R65: a step writes `add64(state[front], state[rear])` to `state[front]` and changes no other table
word, `state[rear]` among them; and the step's frame: flags, phase and inputs stay. -/
def Obligations.StepAddsRearToFront : Prop :=
  ∀ s : State,
    readWord (genStep s).1 s.front = add64 (readWord s s.front) (readWord s s.rear) ∧
    (∀ i : Cursor, i ≠ s.front → readWord (genStep s).1 i = readWord s i) ∧
    (genStep s).1.seeded = s.seeded ∧ (genStep s).1.fault = s.fault ∧ (genStep s).1.phase = s.phase ∧
    (genStep s).1.inputs = s.inputs ∧ (genStep s).1.resets = s.resets

/-- The word a step returns is bits 31:1 of the sum, zero-extended: bit `j` of it is bit `j + 1` of the sum for
`j ≤ 30`, and bit 31 is 0 (R71, the spec's own inference from R66, R67 and R69). -/
def Obligations.StepReturnsBits31To1OfTheSum : Prop :=
  ∀ s : State,
    (genStep s).2 = ((add64 (readWord s s.front) (readWord s s.rear)).extractLsb' 1 31).setWidth 32 ∧
    (∀ j ≤ 30, (genStep s).2.getLsbD j = (add64 (readWord s s.front) (readWord s s.rear)).getLsbD (j + 1)) ∧
    (genStep s).2.getLsbD 31 = false

/-- A logical shift in place of the arithmetic one would return the same word, and the state a step leaves
does not involve the shifted value at all (R85, the spec's own inference from R71). -/
def Obligations.KindOfShiftIsUnobservable : Prop :=
  ∀ s : State,
    (genStep s).2 = trunc32 (and64 (add64 (readWord s s.front) (readWord s s.rear) >>> 1) outMask) ∧
    (genStep s).1 = advanceCursors (writeWord s s.front (add64 (readWord s s.front) (readWord s s.rear)))

/-- R90, the spec's own inference from R65 and R68: 31 consecutive steps write each word exactly once, in index order from the current `front` and
wrapping at 30: the word `k` places after `front` is untouched by the first `k` steps, written by the
next one, at which `front` selects it, and untouched by those after. -/
def Obligations.OneTurnWritesEachWordOnce : Prop :=
  ∀ (s : State) (k : Nat), k < 31 →
    (discardSteps k s).front.val = (s.front.val + k) % 31 ∧
    (∀ j ≤ k, readWord (discardSteps j s) (discardSteps k s).front = readWord s (discardSteps k s).front) ∧
    ∀ j, k < j → j ≤ 31 → readWord (discardSteps j s) (discardSteps k s).front =
      add64 (readWord (discardSteps k s) (discardSteps k s).front) (readWord (discardSteps k s) (discardSteps k s).rear)

/-- R96: the separation `(front - rear) mod 31 = 3` holds after step 3 of `INIT` and every `Step()` keeps
it, the warm-up's among them. -/
def Obligations.SeparationHoldsFromInitOnward : Prop :=
  (∀ (seed : Seed) (s : State), Separated (setCursors front0 rear0 (expand seed s))) ∧
  (∀ s : State, Separated s → Separated (genStep s).1) ∧
  (∀ s : State, Separated s ↔ ((s.front.val : Int) - s.rear.val) % 31 = 3)

/-! ### `NEXT` (R72, R98) -/

/-- `NEXT` on a seeded engine completes (R72): one word is the sum, every other word is as before, both
cursors advance by one modulo 31, no flag changes, and the response is the word of the step. -/
def Obligations.NextCompletesWhenSeeded : Prop :=
  ∀ s : State, s.seeded = true → ∃ t, exec .next s = .next t ∧
    readWord t s.front = readWord s s.front + readWord s s.rear ∧
    (∀ i : Cursor, i ≠ s.front → readWord t i = readWord s i) ∧
    t.front.val = (s.front.val + 1) % 31 ∧ t.rear.val = (s.rear.val + 1) % 31 ∧
    t.seeded = s.seeded ∧ t.fault = s.fault ∧ t.inputs = s.inputs ∧ t.resets = s.resets ∧
    t.phase = .responding { fault := false,
                            data := ((readWord s s.front + readWord s s.rear).extractLsb' 1 31).setWidth 32 }

/-- R98: `NEXT` with `SEEDED = 0` raises `NotSeeded`, cause code 1: `FAULT <- 1`, the response is (1, 0), and
nothing else changes; and only `NEXT`, and only then, raises it. -/
def Obligations.NotSeededIsRaisedByNextAlone : Prop :=
  (∀ s : State, s.seeded = false → ∃ t, exec .next s = .next t ∧
    t.fault = true ∧ t.phase = .responding { fault := true, data := 0x00000000#32 } ∧
    (∀ i : Cursor, readWord t i = readWord s i) ∧ t.front = s.front ∧ t.rear = s.rear ∧ t.seeded = s.seeded ∧
    t.inputs = s.inputs ∧ t.resets = s.resets) ∧
  (∀ (i : Instr) (s t : State) (r : Response), exec i s = .next t → t.phase = .responding r →
    (r.fault = true ↔ i = .next ∧ s.seeded = false) ∧
    (reportedCode r = 1 ↔ i = .next ∧ s.seeded = false) ∧ (reportedCode r = 0 ↔ r.fault = false))

/-- A second `NotSeeded` is idempotent on the state: where a `NEXT` has faulted, another faults and changes
nothing (R105). -/
def Obligations.SecondNotSeededChangesNothing : Prop :=
  ∀ s t : State, s.seeded = false → exec .next s = .next t → exec .next t = .next t

/-- However many `NEXT`s come before an `INIT`, every one of them faults, none returns a word of the table,
and the table, the cursors and `SEEDED` stay (R99, R113). -/
def Obligations.NextsBeforeInitAllFault : Prop :=
  ∀ (n : Nat) (s : State), s.seeded = false →
    responses (List.replicate n .next) s = List.replicate n { fault := true, data := 0#32 } ∧
    ∃ t, runInstrs (List.replicate n .next) s = .next t ∧ t.table = s.table ∧ t.front = s.front ∧ t.rear = s.rear ∧
      t.seeded = false ∧ (0 < n → t.fault = true)

/-- R93: every word a command answers with is at most 2147483647, and its bit 31 is 0. -/
def Obligations.WordsAreBelow2Pow31 : Prop :=
  ∀ (i : Instr) (s t : State) (r : Response), exec i s = .next t → t.phase = .responding r →
    r.data.toNat ≤ 2147483647 ∧ r.data.getLsbD 31 = false

/-! ### `INIT` (R56 to R62) -/

/-- Steps 1 and 2 of `INIT` (R57, R58): word 0 is the seed with its upper 32 bits zero, and each word after
it is the recurrence applied to the full word before it, whatever the table held. -/
def Obligations.ExpansionIsTheRecurrence : Prop :=
  ∀ (seed : Seed) (s : State),
    readWord (expand seed s) 0 = zext64 seed ∧
    (readWord (expand seed s) 0).extractLsb' 32 32 = 0#32 ∧ (readWord (expand seed s) 0).extractLsb' 0 32 = seed ∧
    ∀ i j : Cursor, j.val = i.val + 1 →
      (readWord (expand seed s) j).toNat = ((readWord (expand seed s) i).toNat * 1103515145 + 12345) % 2 ^ 64

/-- `INIT` completes in every state (R56): the table is the expansion put through exactly 310 steps from
cursors (3, 0), the cursors are (3, 0) again (R88, the spec's own inference), `SEEDED` is 1, `FAULT` is as it was, and the
response is (0, 0). -/
def Obligations.InitCompletes : Prop :=
  ∀ (seed : Seed) (s : State), ∃ t, exec (.init seed) s = .next t ∧
    (∀ i : Cursor, readWord t i = readWord (discardSteps 310 { expand seed s with front := 3, rear := 0 }) i) ∧
    t.front = 3 ∧ t.rear = 0 ∧ t.seeded = true ∧ t.fault = s.fault ∧
    t.phase = .responding { fault := false, data := 0x00000000#32 } ∧ t.inputs = s.inputs ∧ t.resets = s.resets

/-- R61: nothing the engine held before an `INIT` influences the state after it, except `FAULT`, which keeps
its earlier value. -/
def Obligations.InitDiscardsEarlierState : Prop :=
  ∀ (seed : Seed) (s₁ s₂ : State), ∃ t₁ t₂, exec (.init seed) s₁ = .next t₁ ∧ exec (.init seed) s₂ = .next t₂ ∧
    t₁.table = t₂.table ∧ t₁.front = t₂.front ∧ t₁.rear = t₂.rear ∧ t₁.seeded = t₂.seeded ∧ t₁.phase = t₂.phase ∧
    t₁.fault = s₁.fault ∧ t₂.fault = s₂.fault

/-- R95: seed 0 is used as it is; its expansion leaves the fixed point 0, and its first three words are
826837439, 875085451 and 912245678, neither zero nor equal. -/
def Obligations.SeedZeroDoesNotCollapse : Prop :=
  readWord (expand 0#32 State.reset) 0 = 0#64 ∧ readWord (expand 0#32 State.reset) 1 = 12345#64 ∧
  readWord (expand 0#32 State.reset) 2 = 0x00000C63D3C9403A#64 ∧
  (responses [.init 0#32, .next, .next, .next] State.reset).map (fun r => r.data.toNat) =
    [0, 826837439, 875085451, 912245678]

/-! ### Sequences of commands (R62, R86 to R94, R117) -/

/-- Determinism and reset equivalence (R92, R94, R62): after `INIT s` two engines, whatever they held, give the
same responses to every common sequence of commands, and end with the same table, cursors and `SEEDED`. -/
def Obligations.SeedDeterminesEverything : Prop :=
  ∀ (seed : Seed) (is : List Instr) (s₁ s₂ : State),
    responses (.init seed :: is) s₁ = responses (.init seed :: is) s₂ ∧
    ∃ t₁ t₂, runInstrs (.init seed :: is) s₁ = .next t₁ ∧ runInstrs (.init seed :: is) s₂ = .next t₂ ∧
      t₁.table = t₂.table ∧ t₁.front = t₂.front ∧ t₁.rear = t₂.rear ∧ t₁.seeded = t₂.seeded

/-- For every command, two engines that hold the same table, cursors and `SEEDED` give the same response to it and
hold the same again after it; if they also agreed in `FAULT`, they agree in it again. No command reads `FAULT`, the
reset count or the ports' inputs. For `NEXT` this is R73 (its equal states agree in `FAULT` as well, R18); for
`INIT` it is derived from what `INIT` writes (R57 to R61). -/
def Obligations.EqualEnginesAnswerAlikeAndStayEqual : Prop :=
  ∀ (i : Instr) (s t : State), SameGenerator s t →
    ∃ s' t', exec i s = .next s' ∧ exec i t = .next t' ∧ s'.phase = t'.phase ∧ SameGenerator s' t' ∧
      (s.fault = t.fault → s'.fault = t'.fault)

/-- After `INIT` and `n` `NEXT`s the cursors are `(3 + n) mod 31` and `n mod 31` (R89, the
spec's own inference from R88 and R68). -/
def Obligations.CursorsAfterInitAndNexts : Prop :=
  ∀ (seed : Seed) (n : Nat) (s : State), ∃ t, runInstrs (.init seed :: List.replicate n .next) s = .next t ∧
    t.front.val = (3 + n) % 31 ∧ t.rear.val = n % 31 ∧ t.seeded = true ∧ t.fault = s.fault

/-- The lagged-Fibonacci form (R91, the spec's own inference from R64, R59 and R71): for the sequence `y` of a seed, `INIT` and `m` `NEXT`s answer with bits 31:1
of `y_344, y_345, …`, and the last 31 values stand in the table, `y_n` at index `n mod 31`. -/
def Obligations.LaggedFibonacciForm : Prop :=
  ∀ (seed : Seed) (y : Nat → Word), IsLagged seed y → ∀ (m : Nat) (s : State),
    responses (.init seed :: List.replicate m .next) s =
      { fault := false, data := 0#32 } ::
        (List.range m).map (fun k => { fault := false, data := ((y (344 + k)).extractLsb' 1 31).setWidth 32 }) ∧
    ∃ t, runInstrs (.init seed :: List.replicate m .next) s = .next t ∧
      ∀ n, 313 + m ≤ n → n ≤ 343 + m → ∀ i : Cursor, i.val = n % 31 → readWord t i = y n

/-- Low-half closure (R86, the spec's own inference from R76, R77 and R71): two engines that agree on the low halves of their words, on the cursors and on the
flags give the same responses to every sequence of commands and agree so again after it. -/
def Obligations.ResponsesDependOnLowHalvesOnly : Prop :=
  ∀ (is : List Instr) (s t : State), SameLowHalves s t →
    responses is s = responses is t ∧
    ∃ s' t', runInstrs is s = .next s' ∧ runInstrs is t = .next t' ∧ SameLowHalves s' t'

/-- 31 consecutive `NEXT`s on a seeded engine show bits 31:1 of every table word: the `k`-th response is that of
the word `k` places after `front`, as the table holds it at the end (R117, the spec's own inference
from R90 and R71). -/
def Obligations.ATurnOfWordsShowsTheTable : Prop :=
  ∀ s : State, s.seeded = true → ∃ t, runInstrs (List.replicate 31 .next) s = .next t ∧
    t.front = s.front ∧ t.rear = s.rear ∧
    ∀ (k : Nat) (i : Cursor), k < 31 → i.val = (s.front.val + k) % 31 →
      (responses (List.replicate 31 .next) s)[k]? =
        some { fault := false, data := ((readWord t i).extractLsb' 1 31).setWidth 32 }

/-- A host that seeds first never sees a fault (R113, R100): after `INIT`, no sequence of commands answers with a
fault or records one. -/
def Obligations.NoFaultAfterInit : Prop :=
  ∀ (seed : Seed) (is : List Instr) (s : State),
    (∀ r ∈ responses (.init seed :: is) s, r.fault = false) ∧
    ∃ t, runInstrs (.init seed :: is) s = .next t ∧ (NoFaultRecorded s → NoFaultRecorded t)

/-! ### One step of the engine with its ports (R44, R45, R103, R108 to R114) -/

/-- A step runs the command in progress: when `rst` is not asserted and the word in progress decodes to `i`,
`step` is `exec i` with the present input used up, which changes nothing but the list of inputs (R37, R45;
the list is the model's form of the host, notes/assumptions/4.md). -/
def Obligations.StepRunsTheCommandInProgress : Prop :=
  ∀ (s : State) (w : CommandWord) (i : Instr), (currentInput s).rst = false → s.phase = .executing w →
    decode w = i → i.wellFormed = true → step s = exec i { s with inputs := s.inputs.tail }

/-- The reset state (R26, R111; ready by R110): both flags 0, so `status` is 0, no command in progress and no
response. The table and the cursors are unspecified there and the statement says nothing of them. -/
def Obligations.ResetStateIsUnseededAndReady : Prop :=
  State.reset.seeded = false ∧ State.reset.fault = false ∧ status State.reset = 0#2 ∧
  State.reset.phase = .idle ∧ cmdReady State.reset = true ∧ presented State.reset = none

/-- `rst` wins over everything (R103, R110): while it is asserted nothing is accepted and nothing presented, and
the step takes the engine to the reset state, abandoning a command in progress without a response. The
inputs are the model's form of the host (notes/assumptions/4.md). -/
def Obligations.ResetWinsInEveryState : Prop :=
  ∀ s : State, (currentInput s).rst = true →
    cmdReady s = false ∧ presented s = none ∧
    ∃ t, step s = .next t ∧ t.seeded = false ∧ t.fault = false ∧ t.phase = .idle ∧ t.inputs = s.inputs.tail

/-- A command is accepted exactly when `cmd_valid` and `cmd_ready` are both 1 (R45): then it is in progress and
nothing else has changed; and in no other case is a command in progress after a step. One step is one event of
the protocol (notes/assumptions/4.md, 11.md and 12.md). -/
def Obligations.AcceptedExactlyWhenValidAndReady : Prop :=
  (∀ s : State, (currentInput s).cmdValid = true → cmdReady s = true →
    step s = .next { s with phase := .executing (currentInput s).cmd, inputs := s.inputs.tail }) ∧
  (∀ (s t : State) (w : CommandWord), step s = .next t → t.phase = .executing w →
    (currentInput s).cmdValid = true ∧ cmdReady s = true ∧ w = (currentInput s).cmd)

/-- While a command is in progress or its response is presented, what the host drives on `cmd_valid` and `cmd` has
no effect: no second command can start (R45, R114; notes/assumptions/4.md). -/
def Obligations.PortIsInterlocked : Prop :=
  ∀ (s : State) (p : PortIn) (ps : List PortIn) (v : Bool) (w : CommandWord),
    s.inputs = p :: ps → s.phase ≠ .idle →
    step s = step { s with inputs := { p with cmdValid := v, cmd := w } :: ps }

/-- Every accepted command is answered and `cmd_ready` returns to 1 (R118, R45), unless `rst` comes: the next step
presents the one response, and the step after it makes the engine idle (steps as in notes/assumptions/11.md
and 12.md). -/
def Obligations.AcceptedCommandIsAnswered : Prop :=
  ∀ (s : State) (w : CommandWord), s.phase = .executing w → (∀ p ∈ s.inputs, p.rst = false) →
    ∃ t u, step s = .next t ∧ rspValid t = true ∧ cmdReady t = false ∧
      step t = .next u ∧ rspValid u = false ∧ cmdReady u = true

/-- Every command is total and is answered (R84): no state and no command ends in a fault or a refusal of the machine.
That every step of the engine with its ports answers a next state too rests on the model's form of a step and
of its outcomes (notes/assumptions/11.md and 13.md). -/
def Obligations.EveryCommandAndStepIsTotal : Prop :=
  (∀ (i : Instr) (s : State), ∃ t r, exec i s = .next t ∧ t.phase = .responding r) ∧
  (∀ s : State, ∃ t, step s = .next t)

/-- An engine to which the host does nothing holds its state for any length of time (R108, R102): `n` idle inputs
(notes/assumptions/4.md) leave everything but the list of inputs. -/
def Obligations.IdleEngineHoldsItsState : Prop :=
  ∀ (n : Nat) (s : State), s.phase = .idle → s.inputs = List.replicate n PortIn.idle →
    runSteps n s = .next { s with inputs := [] }

/-- The ports refine the command sequence (R37, R38, R45): a host that does a sequence of actions on the ports leaves
the engine in the state that the actions give as whole atomic transitions, and sees exactly their
responses, in order and one per command. How a host drives an action is `drive` (notes/assumptions/4.md). -/
def Obligations.PortsRefineTheCommandSequence : Prop :=
  ∀ (as : List HostAction) (rest : List PortIn) (s : State), s.phase = .idle →
    ∃ t, runActions as { s with inputs := rest } = .next t ∧
      runSteps (driveAll as).length { s with inputs := driveAll as ++ rest } = .next t ∧
      observed (driveAll as).length { s with inputs := driveAll as ++ rest } = answers as { s with inputs := rest }

/-! ### Rules about the whole machine -/

/-- The invariant holds at reset. -/
def Obligations.ResetMeetsTheInvariant : Prop := Inv State.reset

/-- Every step keeps the invariant (R16, R52, R96), from every state that has it: a seeded engine's cursors are three
apart modulo 31, and a presented response is a fault exactly when the engine is not seeded, then with
data 0 and `FAULT` recorded, and its word is at most 2^31 - 1. -/
def Obligations.EveryStepKeepsTheInvariant : Prop :=
  ∀ s t : State, Inv s → step s = .next t → Inv t

/-- `FAULT` is sticky (R18, R100): only `rst` clears it, and only a `NEXT` executed while `SEEDED = 0` sets it. -/
def Obligations.FaultIsSticky : Prop :=
  ∀ s t : State, step s = .next t →
    (s.fault = true → t.fault = false → (currentInput s).rst = true) ∧
    (s.fault = false → t.fault = true →
      (currentInput s).rst = false ∧ s.seeded = false ∧ ∃ w, s.phase = .executing w ∧ decode w = .next)

/-- `SEEDED` is set by `INIT` alone and cleared by `rst` alone (R17). -/
def Obligations.SeededIsSetByInitAndClearedByReset : Prop :=
  ∀ s t : State, step s = .next t →
    (s.seeded = true → t.seeded = false → (currentInput s).rst = true) ∧
    (s.seeded = false → t.seeded = true →
      (currentInput s).rst = false ∧ ∃ w seed, s.phase = .executing w ∧ decode w = .init seed)

/-- `STATUS` is `SEEDED` in bit 0 and `FAULT` in bit 1 (R21), and it changes only at reset and at the completion of a
command (R45). -/
def Obligations.StatusShowsTheFlags : Prop :=
  (∀ s : State, (ports s).status.getLsbD 0 = s.seeded ∧ (ports s).status.getLsbD 1 = s.fault) ∧
  (∀ s t : State, step s = .next t → (ports t).status ≠ (ports s).status →
    (currentInput s).rst = true ∨ ∃ w, s.phase = .executing w)

/-- Only an `INIT` and a `NEXT` on a seeded engine write the table and the cursors, the `NEXT` no word but the one at
`front` (R13; R27 is the spec's own inference); a reset, which leaves them unspecified, is set aside. -/
def Obligations.TableIsWrittenByInitAndNextAlone : Prop :=
  ∀ s t : State, step s = .next t → (currentInput s).rst = false →
    (∀ w seed, s.phase = .executing w → decode w ≠ .init seed) →
    (∀ i : Cursor, readWord t i ≠ readWord s i →
      i = s.front ∧ s.seeded = true ∧ ∃ w, s.phase = .executing w ∧ decode w = .next) ∧
    (t.front ≠ s.front ∨ t.rear ≠ s.rear →
      s.seeded = true ∧ ∃ w, s.phase = .executing w ∧ decode w = .next)

/-- Engines share nothing (R42, R109): a step of one leaves every other as it was, and is what it would be alone.
The list of engines is the model's form of a system (notes/assumptions/14.md). -/
def Obligations.EnginesShareNothing : Prop :=
  ∀ (sys : System) (k : Nat) (s : State), sys.engines[k]? = some s →
    ∃ t sys', step s = .next t ∧ sys.stepEngine k = .next sys' ∧ sys'.engines[k]? = some t ∧
      ∀ j, j ≠ k → sys'.engines[j]? = sys.engines[j]?
end

