-- ==== Sys2Proof/Laws/State.lean ====
section
/-! SUPPORT. One lemma per field of State and operation that updates State, so that no proof unfolds a
record update. Each proof is `(rfl)`: in brackets it is no definitional rewrite for simp, which would have the
kernel compare whole states. -/

namespace Sys2Proof.Machine

@[simp] theorem setSeeded_table (s : State) : (setSeeded s).table = s.table := (rfl)
@[simp] theorem setSeeded_front (s : State) : (setSeeded s).front = s.front := (rfl)
@[simp] theorem setSeeded_rear (s : State) : (setSeeded s).rear = s.rear := (rfl)
@[simp] theorem setSeeded_seeded (s : State) : (setSeeded s).seeded = true := (rfl)
@[simp] theorem setSeeded_fault (s : State) : (setSeeded s).fault = s.fault := (rfl)
@[simp] theorem setSeeded_phase (s : State) : (setSeeded s).phase = s.phase := (rfl)
@[simp] theorem setSeeded_inputs (s : State) : (setSeeded s).inputs = s.inputs := (rfl)
@[simp] theorem setSeeded_resets (s : State) : (setSeeded s).resets = s.resets := (rfl)

@[simp] theorem setFault_table (s : State) : (setFault s).table = s.table := (rfl)
@[simp] theorem setFault_front (s : State) : (setFault s).front = s.front := (rfl)
@[simp] theorem setFault_rear (s : State) : (setFault s).rear = s.rear := (rfl)
@[simp] theorem setFault_seeded (s : State) : (setFault s).seeded = s.seeded := (rfl)
@[simp] theorem setFault_fault (s : State) : (setFault s).fault = true := (rfl)
@[simp] theorem setFault_phase (s : State) : (setFault s).phase = s.phase := (rfl)
@[simp] theorem setFault_inputs (s : State) : (setFault s).inputs = s.inputs := (rfl)
@[simp] theorem setFault_resets (s : State) : (setFault s).resets = s.resets := (rfl)

@[simp] theorem writeWord_table (s : State) (i : Cursor) (v : Word) : (writeWord s i v).table = s.table.set i.val v := (rfl)
@[simp] theorem writeWord_front (s : State) (i : Cursor) (v : Word) : (writeWord s i v).front = s.front := (rfl)
@[simp] theorem writeWord_rear (s : State) (i : Cursor) (v : Word) : (writeWord s i v).rear = s.rear := (rfl)
@[simp] theorem writeWord_seeded (s : State) (i : Cursor) (v : Word) : (writeWord s i v).seeded = s.seeded := (rfl)
@[simp] theorem writeWord_fault (s : State) (i : Cursor) (v : Word) : (writeWord s i v).fault = s.fault := (rfl)
@[simp] theorem writeWord_phase (s : State) (i : Cursor) (v : Word) : (writeWord s i v).phase = s.phase := (rfl)
@[simp] theorem writeWord_inputs (s : State) (i : Cursor) (v : Word) : (writeWord s i v).inputs = s.inputs := (rfl)
@[simp] theorem writeWord_resets (s : State) (i : Cursor) (v : Word) : (writeWord s i v).resets = s.resets := (rfl)

@[simp] theorem setCursors_table (f r : Cursor) (s : State) : (setCursors f r s).table = s.table := (rfl)
@[simp] theorem setCursors_front (f r : Cursor) (s : State) : (setCursors f r s).front = f := (rfl)
@[simp] theorem setCursors_rear (f r : Cursor) (s : State) : (setCursors f r s).rear = r := (rfl)
@[simp] theorem setCursors_seeded (f r : Cursor) (s : State) : (setCursors f r s).seeded = s.seeded := (rfl)
@[simp] theorem setCursors_fault (f r : Cursor) (s : State) : (setCursors f r s).fault = s.fault := (rfl)
@[simp] theorem setCursors_phase (f r : Cursor) (s : State) : (setCursors f r s).phase = s.phase := (rfl)
@[simp] theorem setCursors_inputs (f r : Cursor) (s : State) : (setCursors f r s).inputs = s.inputs := (rfl)
@[simp] theorem setCursors_resets (f r : Cursor) (s : State) : (setCursors f r s).resets = s.resets := (rfl)

@[simp] theorem advanceCursors_table (s : State) : (advanceCursors s).table = s.table := (rfl)
@[simp] theorem advanceCursors_front (s : State) : (advanceCursors s).front = inc31 s.front := (rfl)
@[simp] theorem advanceCursors_rear (s : State) : (advanceCursors s).rear = inc31 s.rear := (rfl)
@[simp] theorem advanceCursors_seeded (s : State) : (advanceCursors s).seeded = s.seeded := (rfl)
@[simp] theorem advanceCursors_fault (s : State) : (advanceCursors s).fault = s.fault := (rfl)
@[simp] theorem advanceCursors_phase (s : State) : (advanceCursors s).phase = s.phase := (rfl)
@[simp] theorem advanceCursors_inputs (s : State) : (advanceCursors s).inputs = s.inputs := (rfl)
@[simp] theorem advanceCursors_resets (s : State) : (advanceCursors s).resets = s.resets := (rfl)

@[simp] theorem respond_table (f : Bool) (d : OutWord) (s : State) : (respond f d s).table = s.table := (rfl)
@[simp] theorem respond_front (f : Bool) (d : OutWord) (s : State) : (respond f d s).front = s.front := (rfl)
@[simp] theorem respond_rear (f : Bool) (d : OutWord) (s : State) : (respond f d s).rear = s.rear := (rfl)
@[simp] theorem respond_seeded (f : Bool) (d : OutWord) (s : State) : (respond f d s).seeded = s.seeded := (rfl)
@[simp] theorem respond_fault (f : Bool) (d : OutWord) (s : State) : (respond f d s).fault = s.fault := (rfl)
@[simp] theorem respond_phase (f : Bool) (d : OutWord) (s : State) : (respond f d s).phase = .responding { fault := f, data := d } := (rfl)
@[simp] theorem respond_inputs (f : Bool) (d : OutWord) (s : State) : (respond f d s).inputs = s.inputs := (rfl)
@[simp] theorem respond_resets (f : Bool) (d : OutWord) (s : State) : (respond f d s).resets = s.resets := (rfl)

@[simp] theorem acceptCommand_table (w : CommandWord) (s : State) : (acceptCommand w s).table = s.table := (rfl)
@[simp] theorem acceptCommand_front (w : CommandWord) (s : State) : (acceptCommand w s).front = s.front := (rfl)
@[simp] theorem acceptCommand_rear (w : CommandWord) (s : State) : (acceptCommand w s).rear = s.rear := (rfl)
@[simp] theorem acceptCommand_seeded (w : CommandWord) (s : State) : (acceptCommand w s).seeded = s.seeded := (rfl)
@[simp] theorem acceptCommand_fault (w : CommandWord) (s : State) : (acceptCommand w s).fault = s.fault := (rfl)
@[simp] theorem acceptCommand_phase (w : CommandWord) (s : State) : (acceptCommand w s).phase = .executing w := (rfl)
@[simp] theorem acceptCommand_inputs (w : CommandWord) (s : State) : (acceptCommand w s).inputs = s.inputs := (rfl)
@[simp] theorem acceptCommand_resets (w : CommandWord) (s : State) : (acceptCommand w s).resets = s.resets := (rfl)

@[simp] theorem finishCommand_table (s : State) : (finishCommand s).table = s.table := (rfl)
@[simp] theorem finishCommand_front (s : State) : (finishCommand s).front = s.front := (rfl)
@[simp] theorem finishCommand_rear (s : State) : (finishCommand s).rear = s.rear := (rfl)
@[simp] theorem finishCommand_seeded (s : State) : (finishCommand s).seeded = s.seeded := (rfl)
@[simp] theorem finishCommand_fault (s : State) : (finishCommand s).fault = s.fault := (rfl)
@[simp] theorem finishCommand_phase (s : State) : (finishCommand s).phase = .idle := (rfl)
@[simp] theorem finishCommand_inputs (s : State) : (finishCommand s).inputs = s.inputs := (rfl)
@[simp] theorem finishCommand_resets (s : State) : (finishCommand s).resets = s.resets := (rfl)

@[simp] theorem nextInput_table (s : State) : (nextInput s).table = s.table := (rfl)
@[simp] theorem nextInput_front (s : State) : (nextInput s).front = s.front := (rfl)
@[simp] theorem nextInput_rear (s : State) : (nextInput s).rear = s.rear := (rfl)
@[simp] theorem nextInput_seeded (s : State) : (nextInput s).seeded = s.seeded := (rfl)
@[simp] theorem nextInput_fault (s : State) : (nextInput s).fault = s.fault := (rfl)
@[simp] theorem nextInput_phase (s : State) : (nextInput s).phase = s.phase := (rfl)
@[simp] theorem nextInput_inputs (s : State) : (nextInput s).inputs = s.inputs.tail := (rfl)
@[simp] theorem nextInput_resets (s : State) : (nextInput s).resets = s.resets := (rfl)

@[simp] theorem takeReset_table (s : State) : (takeReset s).table = resetTable (s.resets + 1) := (rfl)
@[simp] theorem takeReset_front (s : State) : (takeReset s).front = Config.resetFront (s.resets + 1) := (rfl)
@[simp] theorem takeReset_rear (s : State) : (takeReset s).rear = Config.resetRear (s.resets + 1) := (rfl)
@[simp] theorem takeReset_seeded (s : State) : (takeReset s).seeded = false := (rfl)
@[simp] theorem takeReset_fault (s : State) : (takeReset s).fault = false := (rfl)
@[simp] theorem takeReset_phase (s : State) : (takeReset s).phase = .idle := (rfl)
@[simp] theorem takeReset_inputs (s : State) : (takeReset s).inputs = s.inputs := by simp only [takeReset, State.afterReset]
@[simp] theorem takeReset_resets (s : State) : (takeReset s).resets = s.resets + 1 := (rfl)

@[simp] theorem takeException_table (c : Cause) (s : State) : (takeException c s).table = s.table := (rfl)
@[simp] theorem takeException_front (c : Cause) (s : State) : (takeException c s).front = s.front := (rfl)
@[simp] theorem takeException_rear (c : Cause) (s : State) : (takeException c s).rear = s.rear := (rfl)
@[simp] theorem takeException_seeded (c : Cause) (s : State) : (takeException c s).seeded = s.seeded := (rfl)
@[simp] theorem takeException_fault (c : Cause) (s : State) : (takeException c s).fault = true := (rfl)
@[simp] theorem takeException_phase (c : Cause) (s : State) : (takeException c s).phase = .responding { fault := true, data := 0#32 } := by cases c; rfl
@[simp] theorem takeException_inputs (c : Cause) (s : State) : (takeException c s).inputs = s.inputs := (rfl)
@[simp] theorem takeException_resets (c : Cause) (s : State) : (takeException c s).resets = s.resets := (rfl)

end Sys2Proof.Machine
end

