-- ==== Sys2Proof/Laws/Words.lean ====
section
/-! SUPPORT. Reading and writing table words: the read-after-write laws, and which operations leave
every word alone. -/

namespace Sys2Proof.Machine

/-- Two states have the same words when they have the same table. -/
theorem readWord_congr {s t : State} (h : s.table = t.table) (i : Cursor) : readWord s i = readWord t i := by
  simp [readWord, h]

/-- A table is known by its words. -/
theorem table_ext {s t : State} (h : ∀ i, readWord s i = readWord t i) : s.table = t.table :=
  Vector.ext fun i hi => h ⟨i, hi⟩

@[simp] theorem readWord_writeWord_same (s : State) (i : Cursor) (v : Word) : readWord (writeWord s i v) i = v := by
  simp [readWord]

theorem readWord_writeWord_ne (s : State) {i j : Cursor} (v : Word) (h : j ≠ i) :
    readWord (writeWord s i v) j = readWord s j := by
  have hv : i.val ≠ j.val := fun e => h (Fin.ext e.symm)
  simp [readWord, Vector.getElem_set_ne, hv]

theorem readWord_writeWord (s : State) (i j : Cursor) (v : Word) :
    readWord (writeWord s i v) j = if j = i then v else readWord s j := by
  split
  · next h => simp [h]
  · next h => exact readWord_writeWord_ne s v h

@[simp] theorem readWord_setSeeded (s : State) (i : Cursor) : readWord (setSeeded s) i = readWord s i := (rfl)
@[simp] theorem readWord_setFault (s : State) (i : Cursor) : readWord (setFault s) i = readWord s i := (rfl)
@[simp] theorem readWord_setCursors (f r : Cursor) (s : State) (i : Cursor) : readWord (setCursors f r s) i = readWord s i := (rfl)
@[simp] theorem readWord_advanceCursors (s : State) (i : Cursor) : readWord (advanceCursors s) i = readWord s i := (rfl)
@[simp] theorem readWord_respond (f : Bool) (d : OutWord) (s : State) (i : Cursor) : readWord (respond f d s) i = readWord s i := (rfl)
@[simp] theorem readWord_acceptCommand (w : CommandWord) (s : State) (i : Cursor) : readWord (acceptCommand w s) i = readWord s i := (rfl)
@[simp] theorem readWord_finishCommand (s : State) (i : Cursor) : readWord (finishCommand s) i = readWord s i := (rfl)
@[simp] theorem readWord_nextInput (s : State) (i : Cursor) : readWord (nextInput s) i = readWord s i := (rfl)
@[simp] theorem readWord_takeException (c : Cause) (s : State) (i : Cursor) : readWord (takeException c s) i = readWord s i := (rfl)

/-- A reset leaves the free values of its number in the table. -/
theorem readWord_takeReset (s : State) (i : Cursor) : readWord (takeReset s) i = Config.resetWord (s.resets + 1) i := by
  simp [readWord, resetTable]

end Sys2Proof.Machine
end

