-- ==== Sys2Proof/Laws/Ops.lean ====
section
/-! SUPPORT. What the shared operations do, once each: the step, a number of discarded steps, and the
expansion. -/

namespace Sys2Proof.Machine

section Step

variable (s : State)

@[simp] theorem genStep_front : (genStep s).1.front = inc31 s.front := (rfl)
@[simp] theorem genStep_rear : (genStep s).1.rear = inc31 s.rear := (rfl)
@[simp] theorem genStep_seeded : (genStep s).1.seeded = s.seeded := (rfl)
@[simp] theorem genStep_fault : (genStep s).1.fault = s.fault := (rfl)
@[simp] theorem genStep_phase : (genStep s).1.phase = s.phase := (rfl)
@[simp] theorem genStep_inputs : (genStep s).1.inputs = s.inputs := (rfl)
@[simp] theorem genStep_resets : (genStep s).1.resets = s.resets := (rfl)

/-- The words after a step: the sum at the front cursor, every other word as before. -/
theorem readWord_genStep (i : Cursor) :
    readWord (genStep s).1 i = if i = s.front then readWord s s.front + readWord s s.rear else readWord s i :=
  readWord_writeWord s s.front i _

/-- The word a step returns is made from the sum alone. -/
theorem genStep_output : (genStep s).2 = outputOf (readWord s s.front + readWord s s.rear) := rfl

end Step

section DiscardSteps

/-- One more step may be taken last instead of first. -/
theorem discardSteps_succ (n : Nat) (s : State) : discardSteps (n + 1) s = (genStep (discardSteps n s)).1 := by
  induction n generalizing s with
  | zero => rfl
  | succ n ih => exact ih (genStep s).1

/-- What every step keeps, any number of steps keeps. -/
theorem discardSteps_keeps {α : Type} (f : State → α) (h : ∀ s, f (genStep s).1 = f s) (n : Nat) (s : State) :
    f (discardSteps n s) = f s := by
  induction n generalizing s with
  | zero => rfl
  | succ n ih => exact (ih _).trans (h s)

@[simp] theorem discardSteps_seeded (n : Nat) (s : State) : (discardSteps n s).seeded = s.seeded :=
  discardSteps_keeps State.seeded genStep_seeded n s
@[simp] theorem discardSteps_fault (n : Nat) (s : State) : (discardSteps n s).fault = s.fault :=
  discardSteps_keeps State.fault genStep_fault n s
@[simp] theorem discardSteps_phase (n : Nat) (s : State) : (discardSteps n s).phase = s.phase :=
  discardSteps_keeps State.phase genStep_phase n s
@[simp] theorem discardSteps_inputs (n : Nat) (s : State) : (discardSteps n s).inputs = s.inputs :=
  discardSteps_keeps State.inputs genStep_inputs n s
@[simp] theorem discardSteps_resets (n : Nat) (s : State) : (discardSteps n s).resets = s.resets :=
  discardSteps_keeps State.resets genStep_resets n s

/-- The front cursor after `n` steps, as the repeated increment. -/
theorem discardSteps_front (n : Nat) (s : State) : (discardSteps n s).front = inc31^[n] s.front := by
  induction n generalizing s with
  | zero => rfl
  | succ n ih => exact ih (genStep s).1

/-- The rear cursor after `n` steps, as the repeated increment. -/
theorem discardSteps_rear (n : Nat) (s : State) : (discardSteps n s).rear = inc31^[n] s.rear := by
  induction n generalizing s with
  | zero => rfl
  | succ n ih => exact ih (genStep s).1

end DiscardSteps

section Expansion

@[simp] theorem expandUpTo_front (n : Nat) (s : State) : (expandUpTo n s).front = s.front := by
  induction n with
  | zero => rfl
  | succ n ih => exact ih
@[simp] theorem expandUpTo_rear (n : Nat) (s : State) : (expandUpTo n s).rear = s.rear := by
  induction n with
  | zero => rfl
  | succ n ih => exact ih
@[simp] theorem expandUpTo_seeded (n : Nat) (s : State) : (expandUpTo n s).seeded = s.seeded := by
  induction n with
  | zero => rfl
  | succ n ih => exact ih
@[simp] theorem expandUpTo_fault (n : Nat) (s : State) : (expandUpTo n s).fault = s.fault := by
  induction n with
  | zero => rfl
  | succ n ih => exact ih
@[simp] theorem expandUpTo_phase (n : Nat) (s : State) : (expandUpTo n s).phase = s.phase := by
  induction n with
  | zero => rfl
  | succ n ih => exact ih
@[simp] theorem expandUpTo_inputs (n : Nat) (s : State) : (expandUpTo n s).inputs = s.inputs := by
  induction n with
  | zero => rfl
  | succ n ih => exact ih
@[simp] theorem expandUpTo_resets (n : Nat) (s : State) : (expandUpTo n s).resets = s.resets := by
  induction n with
  | zero => rfl
  | succ n ih => exact ih

theorem loopIndex_val {i : Nat} (h : i < 31) : (loopIndex i).val = i := Nat.mod_eq_of_lt h

/-- The words after the iterations 1 to `n`: word `i` is the recurrence applied `i` times to word 0 for
`i ≤ n`, and what it was for `i > n`. -/
theorem readWord_expandUpTo (n : Nat) (s : State) (hn : n ≤ 30) (i : Cursor) :
    readWord (expandUpTo n s) i = if i.val ≤ n then lcg^[i.val] (readWord s (loopIndex 0)) else readWord s i := by
  induction n generalizing i with
  | zero =>
    split
    · next h => obtain rfl : i = loopIndex 0 := Fin.ext (Nat.le_zero.1 h); rfl
    · rfl
  | succ n ih =>
    have hv : (loopIndex (n + 1)).val = n + 1 := loopIndex_val (by omega)
    have hp : readWord (expandUpTo n s) (loopIndex n) = lcg^[n] (readWord s (loopIndex 0)) := by
      rw [ih (by omega), loopIndex_val (by omega), if_pos (le_refl n)]
    rw [show expandUpTo (n + 1) s = writeWord (expandUpTo n s) (loopIndex (n + 1)) (lcg (readWord (expandUpTo n s) (loopIndex n))) from rfl,
      readWord_writeWord, hp, ih (by omega)]
    by_cases h : i = loopIndex (n + 1)
    · rw [if_pos h, h, hv, if_pos (le_refl _), Function.iterate_succ_apply']
    · have : i.val ≠ n + 1 := fun e => h (Fin.ext (e.trans hv.symm))
      rw [if_neg h]
      split <;> split <;> first | rfl | omega

/-- The words after the expansion are a function of the seed: word `i` is the recurrence applied `i`
times to the zero-extended seed, whatever the table held. -/
theorem readWord_expand (seed : Seed) (s : State) (i : Cursor) :
    readWord (expand seed s) i = lcg^[i.val] (zext64 seed) := by
  rw [expand, show deg - 1 = 30 by rw [deg_eq], readWord_expandUpTo 30 _ (le_refl 30), if_pos (by omega)]
  simp [loadSeed, seedOperand]

@[simp] theorem expand_seeded (seed : Seed) (s : State) : (expand seed s).seeded = s.seeded := by simp [expand, loadSeed]
@[simp] theorem expand_fault (seed : Seed) (s : State) : (expand seed s).fault = s.fault := by simp [expand, loadSeed]
@[simp] theorem expand_phase (seed : Seed) (s : State) : (expand seed s).phase = s.phase := by simp [expand, loadSeed]
@[simp] theorem expand_inputs (seed : Seed) (s : State) : (expand seed s).inputs = s.inputs := by simp [expand, loadSeed]
@[simp] theorem expand_resets (seed : Seed) (s : State) : (expand seed s).resets = s.resets := by simp [expand, loadSeed]

end Expansion

section SeedTable

variable (seed : Seed) (s : State)

@[simp] theorem seedTable_seeded : (seedTable seed s).seeded = s.seeded := by simp [seedTable]
@[simp] theorem seedTable_fault : (seedTable seed s).fault = s.fault := by simp [seedTable]
@[simp] theorem seedTable_phase : (seedTable seed s).phase = s.phase := by simp [seedTable]
@[simp] theorem seedTable_inputs : (seedTable seed s).inputs = s.inputs := by simp [seedTable]
@[simp] theorem seedTable_resets : (seedTable seed s).resets = s.resets := by simp [seedTable]

end SeedTable

end Sys2Proof.Machine
end

