-- ==== Sys2Proof/Laws/PerInstr.lean ====
section
/-! SUPPORT. Statements made once per instruction. `EncodeCanonical`: the word of a command is
canonical, which is the only form an assembler emits (R48). -/

namespace Sys2Proof.Laws.EncodeCanonical

/-- The word that a command is encoded as is canonical. -/
def Statement (i : Instr) : Prop := canonicalWord (encode i) = true

theorem init (seed : Seed) : Statement (.init seed) := by
  have op : (1#1 ++ seed).getLsbD 32 = true := by rw [BitVec.getLsbD_append]; simp
  rw [Statement, canonicalWord, show encode (.init seed) = 1#1 ++ seed from rfl, op, Bool.true_or]

theorem next : Statement .next := by
  simp [Statement, canonicalWord, encode]

end Sys2Proof.Laws.EncodeCanonical
end

