-- ==== Sys2Proof/Laws/Step.lean ====
section
/-! SUPPORT. What executing a command and one step can do, said once: every later proof about them
cites these and unfolds neither. -/

namespace Sys2Proof.Machine

/-- `INIT` always completes, with this state. -/
theorem exec_init (seed : Seed) (s : State) :
    exec (.init seed) s = .next (respond false 0#32 (setSeeded (seedTable seed s))) := rfl

/-- `NEXT` on a seeded engine completes with one step and its word. -/
theorem exec_next_seeded {s : State} (h : s.seeded = true) :
    exec .next s = .next (respond false (genStep s).2 (genStep s).1) := by
  simp [exec, execNext, h]

/-- `NEXT` on an engine that is not seeded takes the exception. -/
theorem exec_next_unseeded {s : State} (h : s.seeded = false) :
    exec .next s = .next (takeException .notSeeded s) := by
  simp [exec, execNext, h]

/-- Everything the execution of a command can do. -/
theorem exec_cases (i : Instr) (s : State) :
    (∃ seed, i = .init seed ∧ exec i s = .next (respond false 0#32 (setSeeded (seedTable seed s)))) ∨
    (i = .next ∧ s.seeded = true ∧ exec i s = .next (respond false (genStep s).2 (genStep s).1)) ∨
    (i = .next ∧ s.seeded = false ∧ exec i s = .next (takeException .notSeeded s)) := by
  cases i with
  | init seed => exact .inl ⟨seed, rfl, rfl⟩
  | next =>
    cases h : s.seeded with
    | true => exact .inr (.inl ⟨rfl, rfl, exec_next_seeded h⟩)
    | false => exact .inr (.inr ⟨rfl, rfl, exec_next_unseeded h⟩)

/-- An outcome that is a next state is one next state. -/
theorem next_inj {s t : State} (h : (.next s : Host.Outcome State Fault Refusal) = .next t) : t = s := by
  injection h with h
  exact h.symm

/-- Everything the state after a command can be. -/
theorem exec_next_cases {i : Instr} {s t : State} (h : exec i s = .next t) :
    (∃ seed, i = .init seed ∧ t = respond false 0#32 (setSeeded (seedTable seed s))) ∨
    (i = .next ∧ s.seeded = true ∧ t = respond false (genStep s).2 (genStep s).1) ∨
    (i = .next ∧ s.seeded = false ∧ t = takeException .notSeeded s) := by
  obtain ⟨seed, hi, e⟩ | ⟨hi, hs, e⟩ | ⟨hi, hs, e⟩ := exec_cases i s
  · exact .inl ⟨seed, hi, next_inj (e.symm.trans h)⟩
  · exact .inr (.inl ⟨hi, hs, next_inj (e.symm.trans h)⟩)
  · exact .inr (.inr ⟨hi, hs, next_inj (e.symm.trans h)⟩)

/-- Everything one step can do. -/
theorem step_cases (s : State) :
    ((currentInput s).rst = true ∧ step s = .next (takeReset (nextInput s))) ∨
    ((currentInput s).rst = false ∧ s.phase = .idle ∧ (currentInput s).cmdValid = true ∧
      step s = .next (acceptCommand (currentInput s).cmd (nextInput s))) ∨
    ((currentInput s).rst = false ∧ s.phase = .idle ∧ (currentInput s).cmdValid = false ∧
      step s = .next (nextInput s)) ∨
    (∃ w, (currentInput s).rst = false ∧ s.phase = .executing w ∧ step s = exec (decode w) (nextInput s)) ∨
    (∃ r, (currentInput s).rst = false ∧ s.phase = .responding r ∧ step s = .next (finishCommand (nextInput s))) := by
  cases hr : (currentInput s).rst with
  | true => exact .inl ⟨rfl, by simp [step, hr]⟩
  | false =>
    refine .inr ?_
    cases hp : s.phase with
    | idle =>
      cases hv : (currentInput s).cmdValid with
      | true => exact .inl ⟨rfl, rfl, rfl, by simp [step, hr, hp, hv]⟩
      | false => exact .inr (.inl ⟨rfl, rfl, rfl, by simp [step, hr, hp, hv]⟩)
    | executing w => exact .inr (.inr (.inl ⟨w, rfl, rfl, by simp [step, hr, hp]⟩))
    | responding r => exact .inr (.inr (.inr ⟨r, rfl, rfl, by simp [step, hr, hp]⟩))

/-- Everything the state after one step can be. -/
theorem step_next_cases {s t : State} (h : step s = .next t) :
    ((currentInput s).rst = true ∧ t = takeReset (nextInput s)) ∨
    ((currentInput s).rst = false ∧ s.phase = .idle ∧ (currentInput s).cmdValid = true ∧
      t = acceptCommand (currentInput s).cmd (nextInput s)) ∨
    ((currentInput s).rst = false ∧ s.phase = .idle ∧ (currentInput s).cmdValid = false ∧ t = nextInput s) ∨
    (∃ w, (currentInput s).rst = false ∧ s.phase = .executing w ∧ exec (decode w) (nextInput s) = .next t) ∨
    (∃ r, (currentInput s).rst = false ∧ s.phase = .responding r ∧ t = finishCommand (nextInput s)) := by
  obtain ⟨hr, e⟩ | ⟨hr, hp, hv, e⟩ | ⟨hr, hp, hv, e⟩ | ⟨w, hr, hp, e⟩ | ⟨r, hr, hp, e⟩ := step_cases s
  · exact .inl ⟨hr, next_inj (e.symm.trans h)⟩
  · exact .inr (.inl ⟨hr, hp, hv, next_inj (e.symm.trans h)⟩)
  · exact .inr (.inr (.inl ⟨hr, hp, hv, next_inj (e.symm.trans h)⟩))
  · exact .inr (.inr (.inr (.inl ⟨w, hr, hp, e.symm.trans h⟩)))
  · exact .inr (.inr (.inr (.inr ⟨r, hr, hp, next_inj (e.symm.trans h)⟩)))

end Sys2Proof.Machine
end

