-- ==== Sys2Proof/Tests/Slice0.lean ====
section
/-! SUPPORT. The model's own tests. Every expected value is copied from spec/95_test_vectors.md (V2 to V11)
or from the rule named; none is the model's own answer. The `witness_` theorems show, for each
statement with hypotheses, a concrete state and operands that meet them all. -/

namespace Sys2Proof.Tests

open Sys2Proof Sys2Proof.Machine

/-! ### WellFormed: an ill-formed term for each check -/

/-- R53: 4294967295 is the last seed in range; 4294967296 is an assembly error, for both spellings. -/
theorem test_wellFormed_seedRange :
    AsmItem.wellFormed (.init 4294967295) = true ∧ AsmItem.wellFormed (.init 4294967296) = false ∧
    AsmItem.wellFormed (.reseed 4294967296) = false := by decide

/-- V10: `0x000000001` is a non-canonical alias of `NEXT`; `0x000000000` is canonical, as every `INIT` is. -/
theorem test_wellFormed_canonicalWord :
    canonicalWord 0x000000001#33 = false ∧ canonicalWord 0x000000000#33 = true ∧ canonicalWord 0x1DEADBEEF#33 = true := by decide

/-! ### Decode and encode -/

/-- `INIT`, the word of `INIT 1` written out bit by bit from R47's `{1, seed[31:0]}`. -/
theorem test_decode_init : decode 0b100000000000000000000000000000001#33 = .init 1#32 := by decide

/-- `NEXT`, the canonical word and one with every `arg` bit set, written out bit by bit from R48. -/
theorem test_decode_next :
    decode 0b000000000000000000000000000000000#33 = .next ∧ decode 0b011111111111111111111111111111111#33 = .next := by decide

/-- R47's examples, encoded. -/
theorem test_encode :
    encode (.init 1#32) = 0x100000001#33 ∧ encode (.init 0xFFFFFFFF#32) = 0x1FFFFFFFF#33 ∧ encode .next = 0#33 := by decide

/-- The opcode table's canonical examples, and a number that is wider than a command word (R46). -/
theorem test_decodeTableWord :
    decodeTableWord 40 0x100000001 = some (.init 1#32) ∧ decodeTableWord 40 0x000000000 = some .next ∧
    decodeTableWord 40 0x200000000 = none := by decide

/-- The very next step after a word is placed is `exec` of its command, from reset. -/
theorem test_withFetchWord_init :
    step (State.reset.withFetchWord 40 0x100000001) =
      exec (.init 1#32) { State.reset with phase := .executing 0x100000001#33 } := rfl

theorem test_withFetchWord_next :
    step (State.reset.withFetchWord 40 0x000000000) = exec .next { State.reset with phase := .executing 0#33 } := rfl

/-! ### Arithmetic (V8) -/

theorem test_add64 :
    add64 0xFFFFFFFFFFFFFFFF#64 0xFFFFFFFFFFFFFFFF#64 = 0xFFFFFFFFFFFFFFFE#64 ∧
    add64 0x00000000FFFFFFFF#64 1#64 = 0x0000000100000000#64 := by decide

theorem test_mul64 :
    mul64 0x00000000FFFFFFFF#64 mult = 0x41C64E08BE39B1F7#64 ∧ mul64 0x10E659A1337EBC8B#64 mult = 0x082946408B68FAE3#64 := by decide

theorem test_asr64 :
    asr64 0x8000000000000001#64 = 0xC000000000000000#64 ∧ asr64 0x7FFFFFFFFFFFFFFF#64 = 0x3FFFFFFFFFFFFFFF#64 ∧
    asr64 3#64 = 1#64 := by decide

theorem test_inc31 : inc31 29 = 30 ∧ inc31 30 = 0 ∧ inc31 0 = 1 := by decide

theorem test_lcg : lcg 0x10E659A1337EBC8B#64 = 0x082946408B692B1C#64 ∧ lcg 0x80000000#64 = 0x20E3270480003039#64 := by decide

/-! ### The step (V7) -/

/-- An engine with the given cursors, `a` at `front`, `b` at `rear` and 0 elsewhere. -/
def engine (seeded : Bool) (f r : Cursor) (a b : Word) : State where
  table := ((Vector.replicate 31 0#64).set r.val b).set f.val a
  front := f
  rear := r
  seeded := seeded
  fault := false
  phase := .idle
  inputs := []
  resets := 0

/-- V7: two all-ones words; the sum is negative, the arithmetic shift gives all ones, the mask leaves 31. -/
theorem test_step_negativeSum :
    (genStep (engine true 3 0 0xFFFFFFFFFFFFFFFF#64 0xFFFFFFFFFFFFFFFF#64)).2 = 0x7FFFFFFF#32 ∧
    readWord (genStep (engine true 3 0 0xFFFFFFFFFFFFFFFF#64 0xFFFFFFFFFFFFFFFF#64)).1 3 = 0xFFFFFFFFFFFFFFFE#64 := by
  decide +kernel

/-- V7: bit 32 of the sum does not reach the word (the losing 63-bit mask would give 0x80000000). -/
theorem test_step_bit32 : (genStep (engine true 3 0 0x0000000100000000#64 0#64)).2 = 0#32 := by decide +kernel

/-- V7, cursor wrap: `front` wraps alone, and `rear` wraps alone. -/
theorem test_step_wrap :
    (genStep (engine true 30 27 5#64 7#64)).1.front = 0 ∧ (genStep (engine true 30 27 5#64 7#64)).1.rear = 28 ∧
    (genStep (engine true 2 30 5#64 7#64)).1.front = 3 ∧ (genStep (engine true 2 30 5#64 7#64)).1.rear = 0 := by decide +kernel

/-! ### `INIT` and `NEXT` (V2, V3, V6, V11) -/

/-- V2 and V3: after `INIT 1`, the first three words. -/
theorem test_init_next_words :
    responses [.init 1#32, .next, .next, .next] State.reset =
      [{ fault := false, data := 0#32 }, { fault := false, data := 0x100B2AF5#32 },
       { fault := false, data := 0x45B59924#32 }, { fault := false, data := 0x35094B45#32 }] := by decide +kernel

/-- V2, right column: words 0, 3 and 30 after `INIT 1`, and the cursors. -/
theorem test_init_table :
    ((match exec (.init 1#32) State.reset with
      | .next t => [readWord t 0, readWord t 3, readWord t 30]
      | .fault _ => []
      | .refused _ => []) : List Word) = [0xC9C22745CD38F625#64, 0x3D690DF452DD5FC6#64, 0xFFF70975798F8829#64] := by decide +kernel

/-- V6: the expansion of seed 0x80000000 is zero-extended, not sign-extended. -/
theorem test_init_zeroExtends :
    readWord (expand 0x80000000#32 State.reset) 0 = 0x0000000080000000#64 ∧
    readWord (expand 0x80000000#32 State.reset) 1 = 0x20E3270480003039#64 ∧
    readWord (expand 0x80000000#32 State.reset) 3 = 0x2236C76CAA811E43#64 := by decide +kernel

/-- V11: `NEXT` on the reset state faults, and `FAULT` is set. -/
theorem test_next_unseeded :
    responses [.next, .next] State.reset = [{ fault := true, data := 0#32 }, { fault := true, data := 0#32 }] ∧
    (takeException .notSeeded State.reset).fault = true ∧ status (takeException .notSeeded State.reset) = 0b10#2 := by decide +kernel

/-! ### Assembly (V10, R53, R54) -/

/-- V10: `INIT 0x3039`, `INIT 12345` and `RESEED 12345` are all `0x100003039`. -/
theorem test_assemble_seeds :
    assembleProgram ["INIT 0x3039".toList, "INIT 12345 # text".toList, "".toList, "RESEED 12345".toList] =
      .ok [.command 0x100003039#33, .command 0x100003039#33, .command 0x100003039#33] := by rfl

/-- V10: `NEXTS 3` is three words, `NEXTS 0` none, `INIT 4294967296` an error; `.reset` is no command (R53). -/
theorem test_assemble_others :
    assembleLine "NEXTS 3".toList = .ok [.command 0#33, .command 0#33, .command 0#33] ∧
    assembleLine "NEXTS 0".toList = .ok [] ∧ assembleLine "INIT 4294967296".toList = .error .seedOutOfRange ∧
    assembleLine ".reset".toList = .ok [.reset] ∧ assembleLine "INIT -1".toList = .error .badLiteral ∧
    assembleLine "NEXT 1".toList = .error .wrongOperandCount ∧ assembleLine "STEP".toList = .error .unknownMnemonic :=
  ⟨rfl, rfl, rfl, rfl, rfl, rfl, rfl⟩

/-- R54: the disassembler prints the seed in decimal, and `NEXT` for a non-canonical alias. -/
theorem test_disassemble :
    disassemble 0x1DEADBEEF#33 = "INIT 3735928559".toList ∧ disassemble 0x0DEADBEEF#33 = "NEXT".toList := by decide

/-! ### Witnesses: the hypotheses of each statement can be met -/

/-- A seeded engine at the position `INIT` leaves. -/
def seededEngine : State := engine true 3 0 1#64 1#64

/-- An engine with a command in progress. -/
def busyEngine (seeded : Bool) (w : CommandWord) : State := acceptCommand w (engine seeded 3 0 1#64 1#64)

/-- The same, with the given inputs at its ports. -/
def withInputs (s : State) (inputs : List PortIn) : State := { s with inputs := inputs }

theorem witness_DecodeAndEncodeAgree : canonicalWord 0x1FFFFFFFF#33 = true ∧ canonicalWord 0x000000000#33 = true := by decide

theorem witness_NextIgnoresArg :
    0x0FFFFFFFF#33 &&& 0x100000000#33 = 0#33 ∧ (busyEngine true 0x0FFFFFFFF#33).phase = .executing 0x0FFFFFFFF#33 := by decide

theorem witness_DecoderReadsBit32 :
    (0x100000000#33).getLsbD 32 = true ∧ (0x0FFFFFFFF#33).getLsbD 32 = false ∧ 2 ^ 33 ≤ 8589934592 := by decide

theorem witness_SeedOutOfRangeIsAnError :
    AsmItem.wellFormed (.init 4294967295) = true ∧ AsmItem.wellFormed (.init 4294967296) = false ∧
    4294967295 ≤ 4294967295 := by decide

theorem witness_CursorIncrementIsModulo31 : (30 : Cursor).val = 30 ∧ (29 : Cursor).val ≠ 30 := by decide

/-- The last word of a turn, after its last step. -/
theorem witness_OneTurnWritesEachWordOnce : 30 < 31 ∧ 30 ≤ 30 ∧ 30 < 31 ∧ 31 ≤ 31 := by decide

theorem witness_StepAddsRearToFront : (30 : Cursor) ≠ seededEngine.front := by decide

theorem witness_StepReturnsBits31To1OfTheSum : 30 ≤ 30 := by decide

theorem witness_ArithmeticShiftHalvesTheSignedValue : 62 < 63 := by decide

theorem witness_SeparationHoldsFromInitOnward : Separated seededEngine := by
  unfold Separated; decide

theorem witness_NextCompletesWhenSeeded : seededEngine.seeded = true := rfl

theorem witness_NotSeededIsRaisedByNextAlone :
    (engine false 3 0 1#64 1#64).seeded = false ∧
    exec .next (engine false 3 0 1#64 1#64) = .next (takeException .notSeeded (engine false 3 0 1#64 1#64)) ∧
    (takeException .notSeeded (engine false 3 0 1#64 1#64)).phase = .responding { fault := true, data := 0#32 } :=
  ⟨rfl, rfl, rfl⟩

/-- The second part's other side: a command that does not fault. -/
theorem witness_NotSeededIsRaisedByNextAlone_other :
    exec .next seededEngine = .next (respond false (genStep seededEngine).2 (genStep seededEngine).1) ∧
    (respond false (genStep seededEngine).2 (genStep seededEngine).1).phase =
      .responding { fault := false, data := (genStep seededEngine).2 } :=
  ⟨rfl, rfl⟩

theorem witness_SecondNotSeededChangesNothing :
    (engine false 3 0 1#64 1#64).seeded = false ∧
    exec .next (engine false 3 0 1#64 1#64) = .next (takeException .notSeeded (engine false 3 0 1#64 1#64)) :=
  ⟨rfl, rfl⟩

theorem witness_NextsBeforeInitAllFault : (engine false 3 0 1#64 1#64).seeded = false ∧ 0 < 1 := by decide

theorem witness_WordsAreBelow2Pow31 :
    exec .next seededEngine = .next (respond false (genStep seededEngine).2 (genStep seededEngine).1) ∧
    (respond false (genStep seededEngine).2 (genStep seededEngine).1).phase =
      .responding { fault := false, data := (genStep seededEngine).2 } :=
  ⟨rfl, rfl⟩

theorem witness_ExpansionIsTheRecurrence : (30 : Cursor).val = (29 : Cursor).val + 1 := by decide

/-- The sequence of R91 for a seed. -/
def laggedValue (seed : Seed) (n : Nat) : Word :=
  if n < 31 then lcg^[n] (zext64 seed)
  else if n < 34 then lcg^[n - 31] (zext64 seed)
  else laggedValue seed (n - 31) + laggedValue seed (n - 3)
termination_by n

/-- Every seed has the sequence that the statement speaks of. -/
theorem witness_LaggedFibonacciForm : IsLagged 1#32 (laggedValue 1#32) := by
  refine ⟨by rw [laggedValue]; rfl, fun j hj => ?_, fun j hj => ?_, fun n hn => ?_⟩
  · rw [laggedValue, if_pos (by omega), Function.iterate_succ_apply', laggedValue, if_pos (by omega)]
    rfl
  · rw [laggedValue, if_neg (by omega), if_pos (by omega), laggedValue, if_pos (by omega), Nat.add_sub_cancel_left]
  · rw [laggedValue, if_neg (by omega), if_neg (by omega)]

/-- The last 31 values, at both ends of their range, for `m = 0`. -/
theorem witness_LaggedFibonacciForm_range :
    313 + 0 ≤ 313 ∧ 343 ≤ 343 + 0 ∧ (3 : Cursor).val = 313 % 31 ∧ (2 : Cursor).val = 343 % 31 := by decide

/-- Two engines that differ in a high half and agree on every low half. -/
theorem witness_ResponsesDependOnLowHalvesOnly :
    SameLowHalves (engine true 3 0 0x0000000100000005#64 7#64) (engine true 3 0 0x0000000000000005#64 7#64) := by
  unfold SameLowHalves; decide +kernel

/-- Two engines that differ in `FAULT` and in the reset count only. -/
theorem witness_EqualEnginesAnswerAlikeAndStayEqual :
    SameGenerator seededEngine { seededEngine with fault := true, resets := 1 } :=
  ⟨rfl, rfl, rfl, rfl⟩

/-- The clause about `FAULT`: the same in both engines, and the reset counts differ. -/
theorem witness_EqualEnginesAgreeInFault :
    SameGenerator seededEngine { seededEngine with resets := 1 } ∧
    seededEngine.fault = { seededEngine with resets := 1 }.fault := ⟨⟨rfl, rfl, rfl, rfl⟩, rfl⟩

theorem witness_ATurnOfWordsShowsTheTable :
    seededEngine.seeded = true ∧ 30 < 31 ∧ (2 : Cursor).val = (seededEngine.front.val + 30) % 31 := by decide

theorem witness_NoFaultAfterInit : NoFaultRecorded State.reset := rfl

theorem witness_StepRunsTheCommandInProgress :
    (currentInput (busyEngine true 0x100000001#33)).rst = false ∧
    (busyEngine true 0x100000001#33).phase = .executing 0x100000001#33 ∧
    decode 0x100000001#33 = .init 1#32 ∧ Instr.wellFormed (.init 1#32) = true := by decide

/-- `rst` together with a command, on an engine with a command in progress. -/
theorem witness_ResetWinsInEveryState :
    (currentInput (withInputs (busyEngine true 0#33) [{ rst := true, cmdValid := true, cmd := 0x100000001#33 }])).rst = true := rfl

theorem witness_AcceptedExactlyWhenValidAndReady :
    (currentInput (withInputs seededEngine [{ rst := false, cmdValid := true, cmd := 5#33 }])).cmdValid = true ∧
    cmdReady (withInputs seededEngine [{ rst := false, cmdValid := true, cmd := 5#33 }]) = true ∧
    step (withInputs seededEngine [{ rst := false, cmdValid := true, cmd := 5#33 }]) = .next (acceptCommand 5#33 seededEngine) ∧
    (acceptCommand 5#33 seededEngine).phase = .executing 5#33 :=
  ⟨rfl, rfl, rfl, rfl⟩

theorem witness_PortIsInterlocked :
    (withInputs (busyEngine true 0#33) [PortIn.idle]).inputs = PortIn.idle :: [] ∧
    (withInputs (busyEngine true 0#33) [PortIn.idle]).phase ≠ .idle := by decide

theorem witness_AcceptedCommandIsAnswered :
    (withInputs (busyEngine false 0#33) [PortIn.idle, PortIn.idle]).phase = .executing 0#33 ∧
    ∀ p ∈ (withInputs (busyEngine false 0#33) [PortIn.idle, PortIn.idle]).inputs, p.rst = false := by decide

theorem witness_IdleEngineHoldsItsState :
    (withInputs seededEngine [PortIn.idle, PortIn.idle]).phase = .idle ∧
    (withInputs seededEngine [PortIn.idle, PortIn.idle]).inputs = List.replicate 2 PortIn.idle := by decide

theorem witness_PortsRefineTheCommandSequence : seededEngine.phase = .idle := rfl

/-- A seeded engine with a response presented that meets the invariant, and its step. -/
theorem witness_EveryStepKeepsTheInvariant :
    Inv (respond false 1#32 seededEngine) ∧
    step (respond false 1#32 seededEngine) = .next (finishCommand seededEngine) := by
  refine ⟨⟨fun _ => witness_SeparationHoldsFromInitOnward, fun r h => ?_⟩, rfl⟩
  obtain rfl : r = { fault := false, data := 1#32 } := by rw [respond_phase] at h; injection h with h; exact h.symm
  decide

/-- `FAULT` set by a `NEXT` on an engine that is not seeded. -/
theorem witness_FaultIsSticky_set :
    step (busyEngine false 0#33) = .next (takeException .notSeeded (busyEngine false 0#33)) ∧
    (busyEngine false 0#33).fault = false ∧ (takeException .notSeeded (busyEngine false 0#33)).fault = true :=
  ⟨rfl, rfl, rfl⟩

/-- `FAULT` cleared by `rst`. -/
theorem witness_FaultIsSticky_cleared :
    step (withInputs (setFault seededEngine) [{ rst := true, cmdValid := false, cmd := 0#33 }]) =
      .next (takeReset (setFault seededEngine)) ∧
    (setFault seededEngine).fault = true ∧ (takeReset (setFault seededEngine)).fault = false :=
  ⟨rfl, rfl, rfl⟩

/-- `SEEDED` set by an `INIT`. -/
theorem witness_SeededIsSetByInitAndClearedByReset_set :
    step (busyEngine false 0x100000001#33) = exec (.init 1#32) (busyEngine false 0x100000001#33) ∧
    exec (.init 1#32) (busyEngine false 0x100000001#33) =
      .next (respond false 0#32 (setSeeded (seedTable 1#32 (busyEngine false 0x100000001#33)))) ∧
    (busyEngine false 0x100000001#33).seeded = false ∧
    (respond false 0#32 (setSeeded (seedTable 1#32 (busyEngine false 0x100000001#33)))).seeded = true :=
  ⟨rfl, rfl, rfl, rfl⟩

/-- `SEEDED` cleared by `rst`. -/
theorem witness_SeededIsSetByInitAndClearedByReset_cleared :
    step (withInputs seededEngine [{ rst := true, cmdValid := false, cmd := 0#33 }]) = .next (takeReset seededEngine) ∧
    seededEngine.seeded = true ∧ (takeReset seededEngine).seeded = false :=
  ⟨rfl, rfl, rfl⟩

/-- A step at which `status` changes. -/
theorem witness_StatusShowsTheFlags :
    step (busyEngine false 0#33) = .next (takeException .notSeeded (busyEngine false 0#33)) ∧
    (ports (takeException .notSeeded (busyEngine false 0#33))).status ≠ (ports (busyEngine false 0#33)).status :=
  ⟨rfl, by decide⟩

/-- A step of a `NEXT` that writes the word at `front` and moves the cursors. -/
theorem witness_TableIsWrittenByInitAndNextAlone :
    step (busyEngine true 0#33) =
      .next (respond false (genStep (busyEngine true 0#33)).2 (genStep (busyEngine true 0#33)).1) ∧
    (currentInput (busyEngine true 0#33)).rst = false ∧
    (∀ w seed, (busyEngine true 0#33).phase = .executing w → decode w ≠ .init seed) ∧
    readWord (respond false (genStep (busyEngine true 0#33)).2 (genStep (busyEngine true 0#33)).1) 3 ≠
      readWord (busyEngine true 0#33) 3 ∧
    (respond false (genStep (busyEngine true 0#33)).2 (genStep (busyEngine true 0#33)).1).front ≠ (busyEngine true 0#33).front := by
  refine ⟨rfl, rfl, fun w seed h => ?_, by decide +kernel, by decide +kernel⟩
  obtain rfl : w = 0#33 := by rw [busyEngine, acceptCommand_phase] at h; injection h with h; exact h.symm
  exact fun h => nomatch h

theorem witness_EnginesShareNothing :
    ({ engines := [seededEngine, State.reset] } : System).engines[0]? = some seededEngine ∧ 1 ≠ 0 :=
  ⟨rfl, by decide⟩

end Sys2Proof.Tests
end

section
/-! PROOFS. The encoding of the two commands (R46 to R48): what the operation bit of a command word tells,
and why the `arg` bits of a `NEXT` and the word in progress have no effect. -/

namespace Sys2Proof.Machine

/-! ### The operation bit and the field of a command word (R46) -/

/-- R47's and R48's mask keeps `cmd[32]` and nothing else. -/
theorem and_opMask (w : CommandWord) :
    w &&& 0x100000000#33 = if opField w then 0x100000000#33 else 0#33 :=
  BitVec.and_twoPow w 32

/-- A word matches mask 0x100000000, match 0, exactly when its operation bit is 0. -/
theorem and_opMask_eq_zero_iff (w : CommandWord) : w &&& 0x100000000#33 = 0#33 ↔ opField w = false := by
  rw [and_opMask]
  cases opField w <;> decide

/-- The operation bit is the bit in front of `arg`. -/
@[simp] theorem opField_append (b : BitVec 1) (arg : Seed) : opField (b ++ arg) = b.getLsbD 0 := by
  rw [opField, BitVec.getLsbD_append]
  rfl

@[simp] theorem argField_append (b : BitVec 1) (arg : Seed) : argField (b ++ arg) = arg :=
  BitVec.extractLsb'_append_eq_right

theorem decode_of_opField_true {w : CommandWord} (h : opField w = true) : decode w = .init (argField w) := by
  rw [decode, h]

theorem decode_of_opField_false {w : CommandWord} (h : opField w = false) : decode w = .next := by
  rw [decode, h]

/-- Settles O3: the operation bit of `{1, seed}` is 1 and its field is the seed. -/
theorem initEncoding : Obligations.InitEncoding := by
  refine ⟨fun seed => ?_, by decide, by decide, by decide⟩
  have henc : encode (.init seed) = 1#1 ++ seed := rfl
  have hop : opField (1#1 ++ seed) = true := opField_append 1#1 seed
  have harg : argField (1#1 ++ seed) = seed := argField_append 1#1 seed
  refine ⟨henc, ?_, ?_, ?_⟩
  · rw [henc, and_opMask, hop, if_pos rfl]
  · rw [henc]
    exact harg
  · rw [decode_of_opField_true hop, harg]

/-! ### The word in progress has no effect beyond the command it decodes to -/

/-- `NEXT` does not read the word in progress: its response replaces it. -/
theorem exec_next_acceptCommand (v : CommandWord) (s : State) : exec .next (acceptCommand v s) = exec .next s := by
  cases h : s.seeded with
  | true => rw [exec_next_seeded (s := acceptCommand v s) h, exec_next_seeded h]; rfl
  | false => rw [exec_next_unseeded (s := acceptCommand v s) h, exec_next_unseeded h]; rfl

/-- The step of an engine with a command in progress: reset if `rst` is asserted, else that command. -/
theorem step_executing {s : State} {w : CommandWord} (h : s.phase = .executing w) :
    step s = if (currentInput s).rst then .next (takeReset (nextInput s)) else exec (decode w) (nextInput s) := by
  cases hr : (currentInput s).rst <;> simp [step, hr, h]

/-- Two words that decode to `NEXT` step alike, with `rst` asserted and without. -/
theorem step_executing_next {s : State} {w v : CommandWord} (h : s.phase = .executing w)
    (hw : decode w = .next) (hv : decode v = .next) : step s = step (acceptCommand v s) := by
  have hnext : nextInput (acceptCommand v s) = acceptCommand v (nextInput s) := rfl
  have hreset : takeReset (acceptCommand v (nextInput s)) = takeReset (nextInput s) := rfl
  have hinput : currentInput (acceptCommand v s) = currentInput s := rfl
  rw [step_executing h, step_executing (acceptCommand_phase v s), hw, hv, hnext, hreset, hinput,
    exec_next_acceptCommand]

/-- Settles O4: the decoder reads the operation bit alone, and a `NEXT` in progress reads nothing of its word. -/
theorem nextIgnoresArg : Obligations.NextIgnoresArg := by
  refine ⟨fun arg => decode_of_opField_false (opField_append 0#1 arg), by decide, by decide, fun w hmask => ?_⟩
  have hw : decode w = .next := decode_of_opField_false ((and_opMask_eq_zero_iff w).1 hmask)
  exact ⟨hw, fun s hs => step_executing_next hs hw (by decide)⟩

end Sys2Proof.Machine
end

section
/-! PROOFS. The seed initializer (R57 to R61): the expansion is the recurrence from the zero-extended seed, and
the table and the cursors after `INIT` are a function of the seed alone. -/

namespace Sys2Proof.Machine

/-! ### The expansion (R57, R58) -/

@[simp] theorem extractLsb'_zext64_low (x : Seed) : (zext64 x).extractLsb' 0 32 = x :=
  BitVec.extractLsb'_append_eq_right

@[simp] theorem extractLsb'_zext64_high (x : Seed) : (zext64 x).extractLsb' 32 32 = 0#32 :=
  BitVec.extractLsb'_append_eq_left

/-- R58's turn of the recurrence on unsigned values: the full word, reduced modulo 2^64. -/
theorem toNat_lcg (x : Word) : (lcg x).toNat = (x.toNat * 1103515145 + 12345) % 2 ^ 64 := by
  have hmul : (mul64 x mult).toNat = x.toNat * 1103515145 % 2 ^ 64 := BitVec.toNat_mul x mult
  have hadd : (lcg x).toNat = ((mul64 x mult).toNat + 12345) % 2 ^ 64 := BitVec.toNat_add _ inc
  rw [hadd, hmul, Nat.mod_add_mod]

theorem readWord_expand_zero (seed : Seed) (s : State) : readWord (expand seed s) 0 = zext64 seed :=
  readWord_expand seed s 0

/-- Each word of the expansion is one turn of the recurrence on the word before it. -/
theorem readWord_expand_next (seed : Seed) (s : State) {i j : Cursor} (h : j.val = i.val + 1) :
    readWord (expand seed s) j = lcg (readWord (expand seed s) i) := by
  rw [readWord_expand, readWord_expand, h, Function.iterate_succ_apply']

/-- Settles O24: word 0 is the zero-extended seed and each next word is one turn of the recurrence, which on
unsigned values is R58's formula. -/
theorem expansionIsTheRecurrence : Obligations.ExpansionIsTheRecurrence := by
  intro seed s
  rw [readWord_expand_zero]
  refine ⟨rfl, extractLsb'_zext64_high seed, extractLsb'_zext64_low seed, fun i j h => ?_⟩
  rw [readWord_expand_next seed s h, toNat_lcg]

/-! ### What `INIT` leaves does not depend on the state before it (R61) -/

/-- Two states hold the same table and cursors, all that a step of the generator reads (R64). -/
def SameTableAndCursors (s t : State) : Prop := s.table = t.table ∧ s.front = t.front ∧ s.rear = t.rear

theorem genStep_table (s : State) :
    (genStep s).1.table = s.table.set s.front.val (readWord s s.front + readWord s s.rear) := (rfl)

/-- A step reads the table and the cursors alone. -/
theorem SameTableAndCursors.genStep {s t : State} (h : SameTableAndCursors s t) :
    SameTableAndCursors (genStep s).1 (genStep t).1 := by
  obtain ⟨htable, hfront, hrear⟩ := h
  refine ⟨?_, ?_, ?_⟩
  · simp only [genStep_table, readWord_congr htable, htable, hfront, hrear]
  · rw [genStep_front, genStep_front, hfront]
  · rw [genStep_rear, genStep_rear, hrear]

theorem SameTableAndCursors.discardSteps {s t : State} (h : SameTableAndCursors s t) (n : Nat) :
    SameTableAndCursors (discardSteps n s) (discardSteps n t) := by
  induction n with
  | zero => exact h
  | succ n ih =>
    rw [discardSteps_succ, discardSteps_succ]
    exact ih.genStep

/-- The expansion writes every word, so its table is a function of the seed. -/
theorem expand_table_eq (seed : Seed) (s t : State) : (expand seed s).table = (expand seed t).table :=
  table_ext fun i => (readWord_expand seed s i).trans (readWord_expand seed t i).symm

/-- The discarded steps start from the expansion and the fixed cursors (R59, R60), so they end alike. -/
theorem sameTableAndCursors_seedTable (seed : Seed) (s t : State) :
    SameTableAndCursors (seedTable seed s) (seedTable seed t) := by
  have hstart : SameTableAndCursors (setCursors front0 rear0 (expand seed s)) (setCursors front0 rear0 (expand seed t)) :=
    ⟨by rw [setCursors_table, setCursors_table, expand_table_eq seed s t],
      by rw [setCursors_front, setCursors_front], by rw [setCursors_rear, setCursors_rear]⟩
  rw [seedTable, seedTable]
  exact hstart.discardSteps warmup

/-- Two engines agree in all that a command reads once each has executed the same `INIT`. -/
theorem sameGenerator_init (seed : Seed) (s t : State) :
    SameGenerator (respond false 0#32 (setSeeded (seedTable seed s)))
      (respond false 0#32 (setSeeded (seedTable seed t))) := by
  simpa [SameGenerator, SameTableAndCursors] using sameTableAndCursors_seedTable seed s t

/-- Settles O26: `INIT` completes in both states, and its table and cursors are made from the seed alone. -/
theorem initDiscardsEarlierState : Obligations.InitDiscardsEarlierState := by
  intro seed s₁ s₂
  obtain ⟨htable, hfront, hrear, hseeded⟩ := sameGenerator_init seed s₁ s₂
  refine ⟨_, _, exec_init seed s₁, exec_init seed s₂, htable, hfront, hrear, hseeded, ?_, ?_, ?_⟩
  · rw [respond_phase, respond_phase]
  · rw [respond_fault, setSeeded_fault, seedTable_fault]
  · rw [respond_fault, setSeeded_fault, seedTable_fault]

end Sys2Proof.Machine
end

section
/-! PROOFS. The table effect of one step of the generator (R65): the sum goes to the word at the earlier
`front`, and every other word stays. -/

namespace Sys2Proof.Machine

/-- R65's written word. It also holds when the cursors coincide: both operands are read before the write. -/
theorem readWord_genStep_front (s : State) :
    readWord (genStep s).1 s.front = add64 (readWord s s.front) (readWord s s.rear) := by
  rw [readWord_genStep, if_pos rfl]
  rfl

/-- R65's frame: the word at `rear` is among those left as they are, when `rear` is not `front`. -/
theorem readWord_genStep_ne (s : State) {i : Cursor} (h : i ≠ s.front) :
    readWord (genStep s).1 i = readWord s i := by
  rw [readWord_genStep, if_neg h]

/-- Settles O14: the written word and the unwritten words of a step, and the fields it leaves alone. -/
theorem stepAddsRearToFront : Obligations.StepAddsRearToFront := by
  intro s
  exact ⟨readWord_genStep_front s, fun _ h => readWord_genStep_ne s h, genStep_seeded s, genStep_fault s,
    genStep_phase s, genStep_inputs s, genStep_resets s⟩

end Sys2Proof.Machine
end

section
/-! PROOFS. The arithmetic primitives (R76 to R80): their effect on unsigned and signed values and on bits, and
the cursors' increment as addition in the integers modulo 31, which keeps the cursors three apart (R96). -/

namespace Sys2Proof.Machine

/-! ### Addition and multiplication (R76, R77) -/

theorem toNat_add64 (a b : Word) : (add64 a b).toNat = (a.toNat + b.toNat) % 2 ^ 64 := BitVec.toNat_add a b

theorem toNat_mul64 (a b : Word) : (mul64 a b).toNat = a.toNat * b.toNat % 2 ^ 64 := BitVec.toNat_mul a b

/-- Settles O9: both primitives reduce modulo 2^64, and the rules' corner cases are computed. -/
theorem addAndMulWrapModulo2Pow64 : Obligations.AddAndMulWrapModulo2Pow64 :=
  ⟨toNat_add64, toNat_mul64, by decide, by decide, by decide, fun x => BitVec.add_zero x, by decide, by decide,
    by decide, by decide, by decide⟩

/-! ### The arithmetic shift (R78) -/

theorem getLsbD_asr64 (v : Word) (j : Nat) :
    (asr64 v).getLsbD j = if j < 63 then v.getLsbD (j + 1) else decide (j = 63) && v.getLsbD 63 := by
  rw [asr64, BitVec.getLsbD_append]
  split
  · next h => simp [h, Nat.add_comm]
  · next h =>
    obtain rfl | hj : j = 63 ∨ 63 < j := by omega
    · simp
    · simp [show ¬ j - 63 < 1 by omega, show j ≠ 63 by omega]

/-- R78's bits `{v[63], v[63:1]}` are those of the signed shift by one. -/
theorem asr64_eq_sshiftRight (v : Word) : asr64 v = v.sshiftRight 1 := by
  refine BitVec.eq_of_getLsbD_eq fun j hj => ?_
  rw [getLsbD_asr64, BitVec.getLsbD_sshiftRight]
  obtain rfl | h : j = 63 ∨ j < 63 := by omega
  · simp [BitVec.msb_eq_getLsbD_last]
  · simp [show ¬ 64 ≤ j by omega, h, Nat.add_comm]

/-- The shift is the floor of half the signed value. -/
theorem toInt_asr64 (v : Word) : (asr64 v).toInt = v.toInt / 2 := by
  rw [asr64_eq_sshiftRight, BitVec.toInt_sshiftRight, Int.shiftRight_eq_div_pow]
  rfl

/-- Settles O11: the bits of the shift one by one, and the two inequalities that say floor of half. -/
theorem arithmeticShiftHalvesTheSignedValue : Obligations.ArithmeticShiftHalvesTheSignedValue := by
  intro v
  have hhalf := toInt_asr64 v
  refine ⟨fun j hj => ?_, getLsbD_asr64 v 63, by omega, by omega⟩
  rw [getLsbD_asr64, if_pos hj]

/-! ### Mask, truncation and zero-extension (R79) -/

theorem toNat_trunc32 (v : Word) : (trunc32 v).toNat = v.toNat % 2 ^ 32 := by
  rw [trunc32, BitVec.extractLsb'_toNat, Nat.shiftRight_zero]

theorem toNat_zext64 (x : Seed) : (zext64 x).toNat = x.toNat := by
  rw [zext64, BitVec.toNat_append, BitVec.toNat_ofNat, Nat.zero_mod, Nat.zero_shiftLeft, Nat.zero_or]

/-- The mask is 31 one-bits, so it reduces modulo 2^31 (R67). -/
theorem toNat_and64_outMask (v : Word) : (and64 v outMask).toNat = v.toNat % 2 ^ 31 :=
  (BitVec.toNat_and v outMask).trans (Nat.and_two_pow_sub_one_eq_mod v.toNat 31)

/-- Settles O12: a masked word is below 2^31, so its reduction modulo 2^32 is the word itself. -/
theorem maskAndTruncationAreLossless : Obligations.MaskAndTruncationAreLossless := by
  refine ⟨fun a b j => BitVec.getLsbD_and, toNat_trunc32, fun x => ⟨rfl, toNat_zext64 x⟩, rfl, fun v => ?_⟩
  have hlt : (and64 v outMask).toNat < 2 ^ 31 := by
    rw [toNat_and64_outMask]
    exact Nat.mod_lt _ (by decide)
  exact ⟨hlt, by rw [toNat_trunc32, Nat.mod_eq_of_lt (by omega)]⟩

/-! ### The cursors (R80, R96) -/

/-- The compare form of R80 is addition of one modulo 31. -/
theorem inc31_eq_add_one (c : Cursor) : inc31 c = c + 1 := by
  rw [inc31]
  split
  · next h => rw [h]; rfl
  · rfl

theorem val_inc31 (c : Cursor) : (inc31 c).val = (c.val + 1) % 31 := by
  rw [inc31_eq_add_one, Fin.val_add]
  rfl

theorem bijective_inc31 : Function.Bijective inc31 := by
  rw [show inc31 = fun c => c + 1 from funext inc31_eq_add_one]
  exact (Equiv.addRight 1).bijective

theorem val_iterate_inc31 (n : Nat) (c : Cursor) : (inc31^[n] c).val = (c.val + n) % 31 := by
  induction n with
  | zero => exact (Nat.mod_eq_of_lt c.isLt).symm
  | succ n ih => rw [Function.iterate_succ_apply', val_inc31, ih, Nat.mod_add_mod, Nat.add_assoc]

/-- Settles O13: all of it follows from the increment being `(c + 1) mod 31`. -/
theorem cursorIncrementIsModulo31 : Obligations.CursorIncrementIsModulo31 := by
  refine ⟨fun c hc => ?_, fun c hc => ?_, val_inc31, bijective_inc31, fun c => ?_⟩
  · exact if_pos (Fin.ext hc)
  · rw [val_inc31, Nat.mod_eq_of_lt (by omega)]
  · exact Fin.ext (by rw [val_iterate_inc31, Nat.add_mod_right, Nat.mod_eq_of_lt c.isLt])

/-- Both cursors advance by one, so their difference stays. -/
theorem Separated.genStep {s : State} (h : Separated s) : Separated (genStep s).1 := by
  rw [Separated, genStep_front, genStep_rear, inc31_eq_add_one, inc31_eq_add_one, add_sub_add_right_eq_sub]
  exact h

/-- Subtraction of cursors is the integers' subtraction modulo 31. -/
theorem separated_iff_int_mod (s : State) : Separated s ↔ ((s.front.val : Int) - s.rear.val) % 31 = 3 := by
  have hrear := s.rear.isLt
  rw [Separated, Fin.ext_iff, Fin.val_sub, show sep.val = 3 from rfl]
  omega

/-- Settles O18: 3 - 0 = 3 at the cursors that step 3 of `INIT` sets, and every step keeps the difference. -/
theorem separationHoldsFromInitOnward : Obligations.SeparationHoldsFromInitOnward := by
  refine ⟨fun seed s => ?_, fun _ h => h.genStep, separated_iff_int_mod⟩
  rw [Separated, setCursors_front, setCursors_rear]
  decide

end Sys2Proof.Machine
end

section
/-! PROOFS. The words that commands answer with (R93, R95), and why equal generators answer alike, whatever
commands follow (R62, R92, R94). -/

namespace Sys2Proof.Machine

/-! ### The range of the words (R93) -/

theorem toNat_outputOf (sum : Word) : (outputOf sum).toNat = (asr64 sum).toNat % 2 ^ 31 := by
  rw [outputOf, toNat_trunc32, toNat_and64_outMask, Nat.mod_mod_of_dvd' (by decide)]

theorem toNat_outputOf_lt (sum : Word) : (outputOf sum).toNat < 2 ^ 31 := by
  rw [toNat_outputOf]
  exact Nat.mod_lt _ (by decide)

/-- What a command answers with: 0, or the word of a step. -/
theorem data_of_exec {i : Instr} {s t : State} {r : Response} (h : exec i s = .next t)
    (hr : t.phase = .responding r) : r.data = 0#32 ∨ r.data = (genStep s).2 := by
  obtain ⟨seed, -, rfl⟩ | ⟨-, -, rfl⟩ | ⟨-, -, rfl⟩ := exec_next_cases h
  · rw [respond_phase] at hr
    cases hr
    exact .inl rfl
  · rw [respond_phase] at hr
    cases hr
    exact .inr rfl
  · rw [takeException_phase] at hr
    cases hr
    exact .inl rfl

/-- Settles O23: the mask of the output keeps a step's word below 2^31, and every other response carries 0. -/
theorem wordsAreBelow2Pow31 : Obligations.WordsAreBelow2Pow31 := by
  intro i s t r h hr
  have hlt : r.data.toNat < 2 ^ 31 := by
    obtain hzero | hword := data_of_exec h hr
    · rw [hzero]
      decide
    · rw [hword, genStep_output]
      exact toNat_outputOf_lt _
  exact ⟨by omega, Nat.testBit_lt_two_pow hlt⟩

/-- Settles O27: the expansion's words are turns of the recurrence from 0, and the sequence is run as R95 gives it. -/
theorem seedZeroDoesNotCollapse : Obligations.SeedZeroDoesNotCollapse := by
  simp only [Obligations.SeedZeroDoesNotCollapse, readWord_expand]
  exact ⟨by decide, by decide, by decide, by decide +kernel⟩

/-! ### Commands on equal generators (R62, R92, R94) -/

/-- The word of a step is made from the table and the cursors alone. -/
theorem SameTableAndCursors.genStep_output_eq {s t : State} (h : SameTableAndCursors s t) :
    (Machine.genStep s).2 = (Machine.genStep t).2 := by
  obtain ⟨htable, hfront, hrear⟩ := h
  rw [genStep_output, genStep_output, readWord_congr htable, readWord_congr htable, hfront, hrear]

/-- Every command completes on both of two equal generators, answers alike and leaves them equal. -/
theorem SameGenerator.exec {s t : State} (h : SameGenerator s t) (i : Instr) :
    ∃ s' t', exec i s = .next s' ∧ exec i t = .next t' ∧ s'.phase = t'.phase ∧ SameGenerator s' t' := by
  obtain ⟨htable, hfront, hrear, hseeded⟩ := h
  have hcursors : SameTableAndCursors s t := ⟨htable, hfront, hrear⟩
  obtain ⟨seed, rfl, hexec⟩ | ⟨rfl, hs, hexec⟩ | ⟨rfl, hs, hexec⟩ := exec_cases i s
  · refine ⟨_, _, hexec, exec_init seed t, ?_, sameGenerator_init seed s t⟩
    rw [respond_phase, respond_phase]
  · obtain ⟨htable', hfront', hrear'⟩ := hcursors.genStep
    refine ⟨_, _, hexec, exec_next_seeded (hseeded ▸ hs), ?_, htable', hfront', hrear', hseeded⟩
    rw [respond_phase, respond_phase, hcursors.genStep_output_eq]
  · refine ⟨_, _, hexec, exec_next_unseeded (hseeded ▸ hs), ?_, htable, hfront, hrear, hseeded⟩
    rw [takeException_phase, takeException_phase]

/-! ### Sequences of commands (R38) -/

theorem runInstrs_cons {i : Instr} {s t : State} (h : exec i s = .next t) (is : List Instr) :
    runInstrs (i :: is) s = runInstrs is t := by
  simp only [runInstrs, h]

theorem responses_cons {i : Instr} {s t : State} (h : exec i s = .next t) (is : List Instr) :
    responses (i :: is) s = responseOf t ++ responses is t := by
  simp only [responses, h]

theorem responseOf_congr {s t : State} (h : s.phase = t.phase) : responseOf s = responseOf t := by
  simp only [responseOf, h]

@[simp] theorem responseOf_respond (f : Bool) (d : OutWord) (s : State) :
    responseOf (respond f d s) = [{ fault := f, data := d }] := (rfl)

/-- A sequence of commands on two equal generators gives the same responses and leaves them equal. -/
theorem SameGenerator.runInstrs {s t : State} (h : SameGenerator s t) (is : List Instr) :
    responses is s = responses is t ∧
    ∃ s' t', runInstrs is s = .next s' ∧ runInstrs is t = .next t' ∧ SameGenerator s' t' := by
  induction is generalizing s t with
  | nil => exact ⟨rfl, s, t, rfl, rfl, h⟩
  | cons i is ih =>
    obtain ⟨s', t', hs, ht, hphase, h'⟩ := h.exec i
    obtain ⟨hresponses, hruns⟩ := ih h'
    rw [responses_cons hs, responses_cons ht, runInstrs_cons hs, runInstrs_cons ht, responseOf_congr hphase, hresponses]
    exact ⟨rfl, hruns⟩

/-- Settles O28: `INIT` makes the two generators equal and answers alike, and commands keep them so. -/
theorem seedDeterminesEverything : Obligations.SeedDeterminesEverything := by
  intro seed is s₁ s₂
  obtain ⟨hresponses, t₁, t₂, hrun₁, hrun₂, heq⟩ := (sameGenerator_init seed s₁ s₂).runInstrs is
  refine ⟨?_, t₁, t₂, ?_, ?_, heq⟩
  · rw [responses_cons (exec_init seed s₁), responses_cons (exec_init seed s₂), hresponses, responseOf_respond,
      responseOf_respond]
  · rw [runInstrs_cons (exec_init seed s₁), hrun₁]
  · rw [runInstrs_cons (exec_init seed s₂), hrun₂]

end Sys2Proof.Machine
end

section
/-! PROOFS. The exception `NotSeeded` (R98, R101): which commands' responses are faults, and the cause code that a
response reports. -/

namespace Sys2Proof.Machine

/-- A response is a fault exactly when its command is a `NEXT` that executed on an engine not seeded. -/
theorem response_fault_iff {i : Instr} {s t : State} {r : Response} (h : exec i s = .next t)
    (hr : t.phase = .responding r) : r.fault = true ↔ i = .next ∧ s.seeded = false := by
  obtain ⟨seed, rfl, rfl⟩ | ⟨rfl, hs, rfl⟩ | ⟨rfl, hs, rfl⟩ := exec_next_cases h
  · rw [respond_phase] at hr
    cases hr
    simp
  · rw [respond_phase] at hr
    cases hr
    simp [hs]
  · rw [takeException_phase] at hr
    cases hr
    simp [hs]

theorem reportedCode_eq_one_iff (r : Response) : reportedCode r = 1 ↔ r.fault = true := by
  cases hf : r.fault <;> simp [reportedCode, causeCode, hf]

theorem reportedCode_eq_zero_iff (r : Response) : reportedCode r = 0 ↔ r.fault = false := by
  cases hf : r.fault <;> simp [reportedCode, causeCode, hf]

/-- Settles O20: an unseeded `NEXT` takes the exception, which sets `FAULT` and answers and keeps the rest; of the
three ends that a command can come to, it is the only one that answers with a fault. -/
theorem notSeededIsRaisedByNextAlone : Obligations.NotSeededIsRaisedByNextAlone := by
  refine ⟨fun s hs => ⟨_, exec_next_unseeded hs, takeException_fault _ s, takeException_phase _ s,
    readWord_takeException _ s, takeException_front _ s, takeException_rear _ s, takeException_seeded _ s,
    takeException_inputs _ s, takeException_resets _ s⟩, fun i s t r h hr => ?_⟩
  have hfault := response_fault_iff h hr
  exact ⟨hfault, (reportedCode_eq_one_iff r).trans hfault, reportedCode_eq_zero_iff r⟩

end Sys2Proof.Machine
end

section
/-! PROOFS. Decode and encode as inverses (R46 to R50): a command word is its operation bit followed by its `arg`,
and a canonical word has no other freedom. -/

namespace Sys2Proof.Machine

/-- Settles O1: the listed words are computed. -/
theorem encodingVectorsDecode : Obligations.EncodingVectorsDecode := by
  unfold Obligations.EncodingVectorsDecode
  decide

/-- A command word is its operation bit in front of its `arg`. -/
theorem ofBool_opField_append_argField (w : CommandWord) : BitVec.ofBool (opField w) ++ argField w = w := by
  have hop : BitVec.ofBool (opField w) = w.extractLsb' 32 1 := by
    refine BitVec.eq_of_getLsbD_eq fun j hj => ?_
    obtain rfl : j = 0 := by omega
    simp [opField]
  rw [hop]
  exact BitVec.extractLsb'_append_extractLsb' (w := 1) (len := 32)

theorem canonicalWord_iff (w : CommandWord) : canonicalWord w = true ↔ opField w = true ∨ argField w = 0#32 := by
  simp [canonicalWord, opField, argField]

theorem decode_encode (i : Instr) : decode (encode i) = i := by
  cases i with
  | init seed => rw [encode, decode_of_opField_true (opField_append 1#1 seed), argField_append]
  | next => exact decode_of_opField_false (opField_append 0#1 0#32)

theorem encode_decode {w : CommandWord} (h : canonicalWord w = true) : encode (decode w) = w := by
  have hw := ofBool_opField_append_argField w
  cases hop : opField w with
  | true =>
    rw [hop] at hw
    rw [decode_of_opField_true hop]
    exact hw
  | false =>
    have harg : argField w = 0#32 := ((canonicalWord_iff w).1 h).resolve_left (by simp [hop])
    rw [hop, harg] at hw
    rw [decode_of_opField_false hop]
    exact hw

/-- Settles O2: the operation bit tells the command and the rest of a canonical word is the command's operand. -/
theorem decodeAndEncodeAgree : Obligations.DecodeAndEncodeAgree := ⟨decode_encode, fun _ => encode_decode⟩

/-- Settles O5: the decoder branches on the operation bit, and a number is decoded when 33 bits hold it. -/
theorem decoderReadsBit32 : Obligations.DecoderReadsBit32 := by
  refine ⟨fun w h => decode_of_opField_true h, fun w h => decode_of_opField_false h, fun w => ?_, fun n h => ?_⟩
  · rw [decodeNumber, if_pos w.isLt, BitVec.ofNat_toNat, BitVec.setWidth_eq]
  · rw [decodeNumber, if_neg (by omega)]

end Sys2Proof.Machine
end

section
/-! PROOFS. Assembly text (R53, R54): what the items expand to, and that the assembler reads back what the
disassembler prints. -/

namespace Sys2Proof.Machine

/-! ### Items -/

theorem assembleItem_init {n : Nat} (h : seedInRange n = true) :
    assembleItem (.init n) = .ok [.command (encode (.init (BitVec.ofNat 32 n)))] := if_pos h

/-- The word of a seed in range is bit 32 plus the seed: nothing is truncated. -/
theorem encode_init_ofNat {n : Nat} (h : n ≤ 4294967295) :
    encode (.init (BitVec.ofNat 32 n)) = 0x100000000#33 + BitVec.ofNat 33 n := by
  refine BitVec.eq_of_toNat_eq ?_
  rw [encode, BitVec.toNat_append, ← Nat.shiftLeft_add_eq_or_of_lt (BitVec.isLt _)]
  simp [Nat.shiftLeft_eq]
  omega

/-- Settles O7: the branch on `seedInRange` of the two items that have a seed. -/
theorem seedOutOfRangeIsAnError : Obligations.SeedOutOfRangeIsAnError := by
  refine ⟨fun it hit => ?_, fun it hit => ?_, fun n hn => ?_⟩
  · cases it with
    | init n => exact ⟨_, if_pos hit⟩
    | next => exact ⟨_, rfl⟩
    | reseed n => exact ⟨_, if_pos hit⟩
    | nexts n => exact ⟨_, rfl⟩
    | reset => exact ⟨_, rfl⟩
  · cases it with
    | init n => exact if_neg (Bool.eq_false_iff.1 hit)
    | next => cases hit
    | reseed n => exact if_neg (Bool.eq_false_iff.1 hit)
    | nexts n => cases hit
    | reset => cases hit
  · rw [assembleItem_init (decide_eq_true hn), encode_init_ofNat hn]

/-- Settles O8: the pseudo-instructions' arms are their expansions, and the word of `NEXT` is 0. -/
theorem pseudoInstructionsExpand : Obligations.PseudoInstructionsExpand := by
  have hnext : encode .next = 0x000000000#33 := by decide
  exact ⟨fun n => rfl, fun n => by rw [assembleItem, hnext]⟩

/-! ### Decimal digits, printed and read -/

/-- A character that can stand in a decimal literal. -/
def IsDigit (c : Char) : Prop := 48 ≤ c.toNat ∧ c.toNat ≤ 57

theorem toNat_digitChar {d : Nat} (h : d < 10) : (digitChar d).toNat = 48 + d := by
  interval_cases d <;> rfl

theorem isDigit_digitChar {d : Nat} (h : d < 10) : IsDigit (digitChar d) := by
  rw [IsDigit, toNat_digitChar h]
  omega

theorem decimalDigit_digitChar {d : Nat} (h : d < 10) : decimalDigit (digitChar d) = some d := by
  refine (if_pos (isDigit_digitChar h)).trans ?_
  rw [toNat_digitChar h, Nat.add_sub_cancel_left]

/-- Every character printed is a digit. -/
theorem isDigit_of_mem_decimalDigits {k n : Nat} {c : Char} (h : c ∈ decimalDigits k n) : IsDigit c := by
  induction k generalizing n with
  | zero => cases h
  | succ k ih =>
    rw [decimalDigits] at h
    split at h
    · next hn =>
      obtain rfl := List.mem_singleton.1 h
      exact isDigit_digitChar hn
    · obtain h | h := List.mem_append.1 h
      · exact ih h
      · obtain rfl := List.mem_singleton.1 h
        exact isDigit_digitChar (Nat.mod_lt n (by decide))

theorem decimalDigits_ne_nil (k n : Nat) : decimalDigits (k + 1) n ≠ [] := by
  rw [decimalDigits]
  split <;> simp

/-- Digits are read from left to right. -/
theorem readDigits_append {base : Nat} {digit : Char → Option Nat} {cs : List Char} {m n : Nat}
    (h : readDigits base digit cs m = some n) (ds : List Char) :
    readDigits base digit (cs ++ ds) m = readDigits base digit ds n := by
  induction cs generalizing m with
  | nil =>
    obtain rfl : m = n := Option.some.inj h
    rfl
  | cons c cs ih =>
    rw [List.cons_append, readDigits]
    rw [readDigits] at h
    cases hd : digit c with
    | none => simp [hd] at h
    | some d =>
      rw [hd] at h
      exact ih h

/-- `k` digits hold every number below 10^k, and reading them gives it back. -/
theorem readDigits_decimalDigits {k n : Nat} (h : n < 10 ^ k) :
    readDigits 10 decimalDigit (decimalDigits k n) 0 = some n := by
  induction k generalizing n with
  | zero =>
    obtain rfl : n = 0 := by simpa using h
    rfl
  | succ k ih =>
    rw [decimalDigits]
    split
    · next hn => simp [readDigits, decimalDigit_digitChar hn]
    · have hlast : n % 10 < 10 := Nat.mod_lt n (by decide)
      have hfirst : n / 10 < 10 ^ k := by rw [pow_succ] at h; omega
      rw [readDigits_append (ih hfirst)]
      simp only [readDigits, decimalDigit_digitChar hlast, Option.some.injEq]
      omega

/-- A literal of digits does not begin with `0x`, so it is read as decimal. -/
theorem readSeed_of_isDigit {cs : List Char} (h : ∀ c ∈ cs, IsDigit c) : readSeed cs = readDecimal cs := by
  unfold readSeed
  split
  · next ds => exact absurd (h 'x' (by simp)) (by unfold IsDigit; decide)
  · rfl

theorem readDecimal_of_ne_nil {cs : List Char} (h : cs ≠ []) : readDecimal cs = readDigits 10 decimalDigit cs 0 := by
  cases cs with
  | nil => exact absurd rfl h
  | cons c cs => rfl

theorem readSeed_printSeed (seed : Seed) : readSeed (printSeed seed) = some seed.toNat := by
  rw [printSeed, readSeed_of_isDigit fun _ => isDigit_of_mem_decimalDigits, readDecimal_of_ne_nil (decimalDigits_ne_nil 9 _)]
  exact readDigits_decimalDigits (by omega)

/-! ### Lines (R53) -/

/-- A character that a word of a line may hold: it neither ends the word nor opens a comment. -/
def IsWordChar (c : Char) : Prop := isSpace c = false ∧ c ≠ '#'

theorem IsDigit.isWordChar {c : Char} (h : IsDigit c) : IsWordChar c := by
  obtain ⟨hlow, -⟩ := h
  have hne (d : Char) (hd : d.toNat < 48) : c ≠ d := fun e => by
    rw [e] at hlow
    omega
  refine ⟨?_, hne '#' (by decide)⟩
  simp [isSpace, hne ' ' (by decide), hne '\t' (by decide), hne '\r' (by decide)]

/-- A run of characters without a space is one word. -/
theorem splitWords_of_isWordChar {cs : List Char} (h : ∀ c ∈ cs, IsWordChar c) (acc : List Char) :
    splitWords cs acc = finishWord (cs.reverse ++ acc) := by
  induction cs generalizing acc with
  | nil => rfl
  | cons c cs ih =>
    obtain ⟨⟨hspace, -⟩, hcs⟩ := List.forall_mem_cons.1 h
    rw [splitWords, if_neg (by simp [hspace]), ih hcs, List.reverse_cons, List.append_assoc]
    rfl

theorem finishWord_reverse {cs : List Char} (h : cs ≠ []) : finishWord cs.reverse = [cs] := by
  simp [finishWord, h]

/-- A line of the mnemonic `INIT`, a space and one word is read as the item with that operand. -/
theorem parseLine_init {cs : List Char} (hne : cs ≠ []) (hcs : ∀ c ∈ cs, IsWordChar c) {n : Nat}
    (hn : readSeed cs = some n) : parseLine (['I', 'N', 'I', 'T', ' '] ++ cs) = .ok (some (.init n)) := by
  have hcomment : beforeComment (['I', 'N', 'I', 'T', ' '] ++ cs) = ['I', 'N', 'I', 'T', ' '] ++ cs := by
    refine List.takeWhile_eq_self_iff.2 fun c hc => decide_eq_true ?_
    obtain hc | hc := List.mem_append.1 hc
    · exact fun e => absurd (e ▸ hc) (by decide)
    · exact (hcs c hc).2
  have hwords : splitWords (['I', 'N', 'I', 'T', ' '] ++ cs) [] = [['I', 'N', 'I', 'T'], cs] := by
    have hoperand : splitWords cs [] = [cs] := by
      rw [splitWords_of_isWordChar hcs, List.append_nil, finishWord_reverse hne]
    exact congrArg (['I', 'N', 'I', 'T'] :: ·) hoperand
  have hkeyword : keyword ['I', 'N', 'I', 'T'] = some .init := by decide
  simp only [parseLine, hcomment, hwords, hkeyword, parseItem, hn]

/-- Settles O6: `NEXT` is one fixed line; the digits of a seed are one word, read back as the seed. -/
theorem assemblyOfDisassembly : Obligations.AssemblyOfDisassembly := by
  intro w
  rw [disassemble]
  cases decode w with
  | next => rfl
  | init seed =>
    have hparse : parseLine (['I', 'N', 'I', 'T', ' '] ++ printSeed seed) = .ok (some (.init seed.toNat)) :=
      parseLine_init (decimalDigits_ne_nil 9 _) (fun _ hc => (isDigit_of_mem_decimalDigits hc).isWordChar)
        (readSeed_printSeed seed)
    have hrange : seedInRange seed.toNat = true := decide_eq_true (by omega)
    rw [assembleLine, hparse]
    exact (assembleItem_init hrange).trans (by rw [BitVec.ofNat_toNat, BitVec.setWidth_eq])

end Sys2Proof.Machine
end

section
/-! PROOFS. The word of a step as bits 31:1 of the sum (R71, R85), the order in which steps write the table (R90),
and what `NEXT` and `INIT` leave (R56, R72, R88). -/

namespace Sys2Proof.Machine

/-! ### The signed reading (R81) -/

/-- Settles O10: the signed value of a sum or product of bit vectors is the exact one, reduced. -/
theorem signedReadingGivesTheSameBits : Obligations.SignedReadingGivesTheSameBits :=
  ⟨BitVec.toInt_add, BitVec.toInt_mul⟩

/-! ### The word of a step (R71) -/

/-- The mask keeps 31 bits, so the shift's copy of bit 63 is not among them. -/
theorem getLsbD_outputOf (sum : Word) (j : Nat) :
    (outputOf sum).getLsbD j = (decide (j < 31) && sum.getLsbD (j + 1)) := by
  rw [BitVec.getLsbD, toNat_outputOf, Nat.testBit_mod_two_pow]
  by_cases hj : j < 31
  · have hshift := getLsbD_asr64 sum j
    rw [if_pos (by omega)] at hshift
    rw [← hshift]
    rfl
  · simp [hj]

theorem outputOf_eq_extractLsb' (sum : Word) : outputOf sum = (sum.extractLsb' 1 31).setWidth 32 := by
  refine BitVec.eq_of_getLsbD_eq fun j hj => ?_
  rw [getLsbD_outputOf, BitVec.getLsbD_setWidth, BitVec.getLsbD_extractLsb']
  simp [hj, Nat.add_comm]

/-- Settles O15: the output of a step, as a whole and bit by bit. -/
theorem stepReturnsBits31To1OfTheSum : Obligations.StepReturnsBits31To1OfTheSum := by
  refine fun s => ⟨outputOf_eq_extractLsb' _, fun j hj => ?_, getLsbD_outputOf _ 31⟩
  rw [genStep_output, getLsbD_outputOf, decide_eq_true (by omega), Bool.true_and]
  rfl

/-- The masked bits of the two shifts by one are the same. -/
theorem outputOf_eq_logicalShift (sum : Word) : outputOf sum = trunc32 (and64 (sum >>> 1) outMask) := by
  refine BitVec.eq_of_toNat_eq ?_
  rw [outputOf_eq_extractLsb', toNat_trunc32, toNat_and64_outMask]
  simp

/-- Settles O16: the masked bits are the same for both shifts, and the next state is made before any shift. -/
theorem kindOfShiftIsUnobservable : Obligations.KindOfShiftIsUnobservable :=
  fun _ => ⟨outputOf_eq_logicalShift _, rfl⟩

/-! ### One turn of the table (R90) -/

theorem val_discardSteps_front (n : Nat) (s : State) : (discardSteps n s).front.val = (s.front.val + n) % 31 := by
  rw [discardSteps_front, val_iterate_inc31]

theorem val_discardSteps_rear (n : Nat) (s : State) : (discardSteps n s).rear.val = (s.rear.val + n) % 31 := by
  rw [discardSteps_rear, val_iterate_inc31]

/-- Within 31 steps `front` selects no word twice. -/
theorem discardSteps_front_ne {j k : Nat} (hne : j ≠ k) (hj : j < 31) (hk : k < 31) (s : State) :
    (discardSteps k s).front ≠ (discardSteps j s).front := by
  rw [Ne, Fin.ext_iff, val_discardSteps_front, val_discardSteps_front]
  omega

/-- The word that step `k + 1` writes is untouched by the steps before it. -/
theorem readWord_discardSteps_before {j k : Nat} (hjk : j ≤ k) (hk : k < 31) (s : State) :
    readWord (discardSteps j s) (discardSteps k s).front = readWord s (discardSteps k s).front := by
  induction j with
  | zero => rfl
  | succ j ih =>
    rw [discardSteps_succ, readWord_genStep_ne _ (discardSteps_front_ne (by omega) (by omega) hk s), ih (by omega)]

/-- The word that step `k + 1` writes is its sum, and the rest of the turn leaves it. -/
theorem readWord_discardSteps_after {j k : Nat} (hkj : k < j) (hj : j ≤ 31) (s : State) :
    readWord (discardSteps j s) (discardSteps k s).front =
      add64 (readWord (discardSteps k s) (discardSteps k s).front) (readWord (discardSteps k s) (discardSteps k s).rear) := by
  induction j, hkj using Nat.le_induction with
  | base => rw [discardSteps_succ, readWord_genStep_front]
  | succ j hkj ih =>
    rw [discardSteps_succ, readWord_genStep_ne _ (discardSteps_front_ne (by omega) (by omega) (by omega) s), ih (by omega)]

/-- Settles O17: `front` passes the 31 words one by one, and a step writes the word at `front` alone. -/
theorem oneTurnWritesEachWordOnce : Obligations.OneTurnWritesEachWordOnce := fun s k hk =>
  ⟨val_discardSteps_front k s, fun _ hj => readWord_discardSteps_before hj hk s,
    fun _ hkj hj => readWord_discardSteps_after hkj hj s⟩

/-! ### Completion of the two commands -/

/-- Settles O19: the step's words, cursors and output, seen through the response. -/
theorem nextCompletesWhenSeeded : Obligations.NextCompletesWhenSeeded := by
  refine fun s hs => ⟨_, exec_next_seeded hs, ?_, fun i hi => ?_, ?_, ?_, ?_, ?_, ?_, ?_, ?_⟩
  · rw [readWord_respond, readWord_genStep, if_pos rfl]
  · rw [readWord_respond, readWord_genStep_ne s hi]
  · rw [respond_front, genStep_front, val_inc31]
  · rw [respond_rear, genStep_rear, val_inc31]
  · rw [respond_seeded, genStep_seeded]
  · rw [respond_fault, genStep_fault]
  · rw [respond_inputs, genStep_inputs]
  · rw [respond_resets, genStep_resets]
  · rw [respond_phase, genStep_output, outputOf_eq_extractLsb']

/-- R88: 310 is ten turns of the table, so the warm-up returns `front` to where step 3 of `INIT` set it. -/
@[simp] theorem seedTable_front (seed : Seed) (s : State) : (seedTable seed s).front = 3 := by
  refine Fin.ext ?_
  rw [seedTable, val_discardSteps_front, setCursors_front, warmup_eq]
  rfl

@[simp] theorem seedTable_rear (seed : Seed) (s : State) : (seedTable seed s).rear = 0 := by
  refine Fin.ext ?_
  rw [seedTable, val_discardSteps_rear, setCursors_rear, warmup_eq]
  rfl

/-- Settles O25: `INIT` has one outcome, its table is `seedTable` with its loop bound written out. -/
theorem initCompletes : Obligations.InitCompletes := by
  refine fun seed s => ⟨_, exec_init seed s, fun i => ?_, ?_, ?_, ?_, ?_, ?_, ?_, ?_⟩
  · rw [readWord_respond, readWord_setSeeded, seedTable, warmup_eq]
    rfl
  · simp
  · simp
  · simp
  · simp
  · exact respond_phase _ _ _
  · simp
  · simp

end Sys2Proof.Machine
end

section
/-! PROOFS. What the execution of a command reads and writes: the flags after it, and the two relations of states
that it keeps (R64, R73, R86). -/

namespace Sys2Proof.Machine

/-! ### The fields after a command -/

/-- Every command is answered. -/
theorem exists_phase_of_exec {i : Instr} {s t : State} (h : exec i s = .next t) : ∃ r, t.phase = .responding r := by
  obtain ⟨seed, -, rfl⟩ | ⟨-, -, rfl⟩ | ⟨-, -, rfl⟩ := exec_next_cases h
  · exact ⟨_, respond_phase _ _ _⟩
  · exact ⟨_, respond_phase _ _ _⟩
  · exact ⟨_, takeException_phase _ _⟩

/-- R18: a command leaves `FAULT` or, if it is a `NEXT` on an engine not seeded, sets it. -/
theorem fault_of_exec {i : Instr} {s t : State} (h : exec i s = .next t) :
    t.fault = (s.fault || (decide (i = .next) && !s.seeded)) := by
  obtain ⟨seed, rfl, rfl⟩ | ⟨rfl, hs, rfl⟩ | ⟨rfl, hs, rfl⟩ := exec_next_cases h
  · simp
  · simp [hs]
  · simp [hs]

/-- R17: a command leaves `SEEDED` or, if it is an `INIT`, sets it. -/
theorem seeded_of_exec {i : Instr} {s t : State} (h : exec i s = .next t) :
    t.seeded = (s.seeded || decide (i ≠ .next)) := by
  obtain ⟨seed, rfl, rfl⟩ | ⟨rfl, hs, rfl⟩ | ⟨rfl, hs, rfl⟩ := exec_next_cases h
  · simp
  · simp
  · simp

/-- No command touches the model's own fields. -/
theorem inputs_resets_of_exec {i : Instr} {s t : State} (h : exec i s = .next t) :
    t.inputs = s.inputs ∧ t.resets = s.resets := by
  obtain ⟨seed, -, rfl⟩ | ⟨-, -, rfl⟩ | ⟨-, -, rfl⟩ := exec_next_cases h
  · simp
  · simp
  · simp

/-- Settles O50: equal generators stay equal, and the new `FAULT` is made of the old one, the command and `SEEDED`. -/
theorem equalEnginesAnswerAlikeAndStayEqual : Obligations.EqualEnginesAnswerAlikeAndStayEqual := by
  intro i s t h
  obtain ⟨s', t', hs, ht, hphase, h'⟩ := h.exec i
  obtain ⟨-, -, -, hseeded⟩ := h
  exact ⟨s', t', hs, ht, hphase, h', fun hfault => by rw [fault_of_exec hs, fault_of_exec ht, hfault, hseeded]⟩

/-- Settles O21: the first exception has already set the flag and driven the response. -/
theorem secondNotSeededChangesNothing : Obligations.SecondNotSeededChangesNothing := by
  intro s t hs h
  obtain rfl : t = takeException .notSeeded s := next_inj ((exec_next_unseeded hs).symm.trans h)
  rw [exec_next_unseeded (s := takeException .notSeeded s) hs]
  rfl

/-! ### Low halves (R86) -/

/-- Bits 31:1 of a sum lie in its low half. -/
theorem outputOf_congr {a b : Word} (h : a.extractLsb' 0 32 = b.extractLsb' 0 32) : outputOf a = outputOf b := by
  have hbits (v : Word) : v.extractLsb' 1 31 = (v.extractLsb' 0 32).extractLsb' 1 31 :=
    (BitVec.extractLsb'_extractLsb'_of_le (by decide)).symm
  rw [outputOf_eq_extractLsb', outputOf_eq_extractLsb', hbits a, hbits b, h]

/-- No carry comes down from the high halves: the low half of the sum is that of the low halves. -/
theorem SameLowHalves.sum_low {s t : State} (h : SameLowHalves s t) :
    (readWord s s.front + readWord s s.rear).extractLsb' 0 32 =
      (readWord t t.front + readWord t t.rear).extractLsb' 0 32 := by
  obtain ⟨hlow, hfront, hrear, -, -⟩ := h
  rw [BitVec.extractLsb'_add (by decide), BitVec.extractLsb'_add (by decide), hlow, hlow, hfront, hrear]

theorem SameLowHalves.genStep {s t : State} (h : SameLowHalves s t) : SameLowHalves (genStep s).1 (genStep t).1 := by
  have hsum := h.sum_low
  obtain ⟨hlow, hfront, hrear, hseeded, hfault⟩ := h
  refine ⟨fun i => ?_, ?_, ?_, hseeded, hfault⟩
  · rw [readWord_genStep, readWord_genStep]
    by_cases hi : i = s.front
    · rw [if_pos hi, if_pos (hi.trans hfront), hsum]
    · rw [if_neg hi, if_neg (hfront ▸ hi), hlow]
  · rw [genStep_front, genStep_front, hfront]
  · rw [genStep_rear, genStep_rear, hrear]

theorem SameGenerator.sameLowHalves {s t : State} (h : SameGenerator s t) (hfault : s.fault = t.fault) :
    SameLowHalves s t := by
  obtain ⟨htable, hfront, hrear, hseeded⟩ := h
  exact ⟨fun i => by rw [readWord_congr htable], hfront, hrear, hseeded, hfault⟩

/-- Every command completes on both of two engines with the same low halves, answers alike and keeps them so. -/
theorem SameLowHalves.exec {s t : State} (h : SameLowHalves s t) (i : Instr) :
    ∃ s' t', exec i s = .next s' ∧ exec i t = .next t' ∧ s'.phase = t'.phase ∧ SameLowHalves s' t' := by
  have hstep := h.genStep
  have hsum := h.sum_low
  obtain ⟨hlow, hfront, hrear, hseeded, hfault⟩ := h
  obtain ⟨seed, rfl, hexec⟩ | ⟨rfl, hs, hexec⟩ | ⟨rfl, hs, hexec⟩ := exec_cases i s
  · refine ⟨_, _, hexec, exec_init seed t, ?_, (sameGenerator_init seed s t).sameLowHalves ?_⟩
    · rw [respond_phase, respond_phase]
    · simp [hfault]
  · refine ⟨_, _, hexec, exec_next_seeded (hseeded ▸ hs), ?_, hstep⟩
    rw [respond_phase, respond_phase, genStep_output, genStep_output, outputOf_congr hsum]
  · refine ⟨_, _, hexec, exec_next_unseeded (hseeded ▸ hs), ?_, hlow, hfront, hrear, hseeded, rfl⟩
    rw [takeException_phase, takeException_phase]

/-- A relation that every command keeps, answering alike, is kept by every list of commands. -/
theorem runInstrs_rel {R : State → State → Prop}
    (hexec : ∀ {s t}, R s t → ∀ i, ∃ s' t', exec i s = .next s' ∧ exec i t = .next t' ∧ s'.phase = t'.phase ∧ R s' t')
    (is : List Instr) {s t : State} (h : R s t) :
    responses is s = responses is t ∧ ∃ s' t', runInstrs is s = .next s' ∧ runInstrs is t = .next t' ∧ R s' t' := by
  induction is generalizing s t with
  | nil => exact ⟨rfl, s, t, rfl, rfl, h⟩
  | cons i is ih =>
    obtain ⟨s', t', hs, ht, hphase, h'⟩ := hexec h i
    obtain ⟨hresponses, hruns⟩ := ih h'
    rw [responses_cons hs, responses_cons ht, runInstrs_cons hs, runInstrs_cons ht, responseOf_congr hphase, hresponses]
    exact ⟨rfl, hruns⟩

/-- Settles O31: every command keeps the agreement on low halves and answers alike, hence every list of commands. -/
theorem responsesDependOnLowHalvesOnly : Obligations.ResponsesDependOnLowHalvesOnly :=
  fun is _ _ h => runInstrs_rel SameLowHalves.exec is h

end Sys2Proof.Machine
end

section
/-! PROOFS. One step of the engine with its ports (R44, R45, R103, R108 to R114): the step of each phase, that every
step has an outcome, and that the ports run the same atomic transitions as whole commands do. -/

namespace Sys2Proof.Machine

/-! ### The ports at one moment -/

theorem cmdReady_iff (s : State) : cmdReady s = true ↔ (currentInput s).rst = false ∧ s.phase = .idle := by
  simp [cmdReady]

theorem presented_of_responding {s : State} {r : Response} (hp : s.phase = .responding r)
    (hr : (currentInput s).rst = false) : presented s = some r := by
  simp [presented, hp, hr]

/-- Without a command that has completed, `rsp_valid` is 0. -/
theorem presented_eq_none {s : State} (hp : ∀ r, s.phase ≠ .responding r) : presented s = none := by
  cases h : s.phase with
  | idle => rw [presented, h]
  | executing w => rw [presented, h]
  | responding r => exact absurd h (hp r)

theorem presented_of_rst {s : State} (hr : (currentInput s).rst = true) : presented s = none := by
  cases h : s.phase with
  | idle => rw [presented, h]
  | executing w => rw [presented, h]
  | responding r => rw [presented, h]; exact if_pos hr

/-- A host that never asserts `rst` does not assert it now: an exhausted list waits. -/
theorem currentInput_rst_of_forall {s : State} (h : ∀ p ∈ s.inputs, p.rst = false) : (currentInput s).rst = false := by
  cases hin : s.inputs with
  | nil => rw [currentInput, hin]; rfl
  | cons p ps =>
    rw [currentInput, hin]
    exact h p (by simp [hin])

theorem currentInput_of_cons {s : State} {p : PortIn} {ps : List PortIn} (h : s.inputs = p :: ps) :
    currentInput s = p := by
  rw [currentInput, h]
  rfl

theorem nextInput_of_cons {s : State} {p : PortIn} {ps : List PortIn} (h : s.inputs = p :: ps) :
    nextInput s = { s with inputs := ps } := by
  rw [nextInput, h, List.tail_cons]

/-! ### The step of each phase -/

theorem step_reset {s : State} (hr : (currentInput s).rst = true) : step s = .next (takeReset (nextInput s)) := by
  simp [step, hr]

/-- R108: an idle engine with nothing at its port holds its state. -/
theorem step_idle_wait {s : State} (hp : s.phase = .idle) (hr : (currentInput s).rst = false)
    (hv : (currentInput s).cmdValid = false) : step s = .next (nextInput s) := by
  simp [step, hp, hr, hv]

/-- R45: a command is accepted where `cmd_valid` and `cmd_ready` are 1. -/
theorem step_accept {s : State} (hready : cmdReady s = true) (hv : (currentInput s).cmdValid = true) :
    step s = .next (acceptCommand (currentInput s).cmd (nextInput s)) := by
  obtain ⟨hr, hp⟩ := (cmdReady_iff s).1 hready
  simp [step, hp, hr, hv]

/-- The step of an engine that presents a response: reset if `rst` is asserted, else the engine becomes idle. -/
theorem step_responding {s : State} {r : Response} (h : s.phase = .responding r) :
    step s = .next (if (currentInput s).rst then takeReset (nextInput s) else finishCommand (nextInput s)) := by
  cases hr : (currentInput s).rst <;> simp [step, hr, h]

/-- Settles O34: the step of a command in progress, without `rst`. -/
theorem stepRunsTheCommandInProgress : Obligations.StepRunsTheCommandInProgress := by
  intro s w i hr hp hi _
  rw [step_executing hp, hr, hi]
  rfl

/-- Settles O35: the flags and the phase of the reset state, and its ports with a host that drives nothing. -/
theorem resetStateIsUnseededAndReady : Obligations.ResetStateIsUnseededAndReady :=
  ⟨rfl, rfl, rfl, rfl, rfl, rfl⟩

/-- Settles O36: the ports are silent under `rst` and the step takes the reset. -/
theorem resetWinsInEveryState : Obligations.ResetWinsInEveryState := by
  intro s hr
  have hready : cmdReady s = false := by simp [cmdReady, hr]
  exact ⟨hready, presented_of_rst hr, _, step_reset hr, takeReset_seeded _, takeReset_fault _, takeReset_phase _,
    takeReset_inputs _⟩

/-- Settles O37: the acceptance is a step of the idle engine, and no other step leaves a command in progress. -/
theorem acceptedExactlyWhenValidAndReady : Obligations.AcceptedExactlyWhenValidAndReady := by
  refine ⟨fun s hv hready => step_accept hready hv, fun s t w h ht => ?_⟩
  obtain ⟨-, rfl⟩ | ⟨hr, hp, hv, rfl⟩ | ⟨-, hp, -, rfl⟩ | ⟨v, -, -, hexec⟩ | ⟨r, -, -, rfl⟩ := step_next_cases h
  · rw [takeReset_phase] at ht
    cases ht
  · rw [acceptCommand_phase] at ht
    cases ht
    exact ⟨hv, (cmdReady_iff s).2 ⟨hr, hp⟩, rfl⟩
  · rw [nextInput_phase, hp] at ht
    cases ht
  · obtain ⟨r, hresp⟩ := exists_phase_of_exec hexec
    rw [hresp] at ht
    cases ht
  · rw [finishCommand_phase] at ht
    cases ht

/-- The step of a busy engine reads `rst` alone of its present input. -/
theorem step_busy_congr {s u : State} (hp : s.phase ≠ .idle) (hphase : s.phase = u.phase)
    (hrst : (currentInput s).rst = (currentInput u).rst) (hnext : nextInput s = nextInput u) : step s = step u := by
  cases h : s.phase with
  | idle => exact absurd h hp
  | executing w => rw [step_executing h, step_executing (hphase ▸ h), hrst, hnext]
  | responding r => rw [step_responding h, step_responding (hphase ▸ h), hrst, hnext]

/-- Settles O38: the two states differ in `cmd_valid` and `cmd` of the present input, and the engine is busy. -/
theorem portIsInterlocked : Obligations.PortIsInterlocked := by
  intro s p ps v w hin hp
  refine step_busy_congr hp rfl ?_ ?_
  · rw [currentInput_of_cons hin]
    rfl
  · rw [nextInput_of_cons hin]
    rfl

/-! ### Totality and liveness (R84, R118) -/

theorem exec_total (i : Instr) (s : State) : ∃ t r, exec i s = .next t ∧ t.phase = .responding r := by
  have htotal : ∃ t, exec i s = .next t := by
    obtain ⟨seed, -, h⟩ | ⟨-, -, h⟩ | ⟨-, -, h⟩ := exec_cases i s
    · exact ⟨_, h⟩
    · exact ⟨_, h⟩
    · exact ⟨_, h⟩
  obtain ⟨t, h⟩ := htotal
  obtain ⟨r, hr⟩ := exists_phase_of_exec h
  exact ⟨t, r, h, hr⟩

theorem step_total (s : State) : ∃ t, step s = .next t := by
  obtain ⟨-, h⟩ | ⟨-, -, -, h⟩ | ⟨-, -, -, h⟩ | ⟨w, -, -, h⟩ | ⟨r, -, -, h⟩ := step_cases s
  · exact ⟨_, h⟩
  · exact ⟨_, h⟩
  · exact ⟨_, h⟩
  · obtain ⟨t, r, hexec, -⟩ := exec_total (decode w) (nextInput s)
    exact ⟨t, h.trans hexec⟩
  · exact ⟨_, h⟩

/-- Settles O40: no end of a command or of a step is a fault or a refusal. -/
theorem everyCommandAndStepIsTotal : Obligations.EveryCommandAndStepIsTotal := ⟨exec_total, step_total⟩

/-- Settles O39: the next step executes the command, and the step after it takes the response. -/
theorem acceptedCommandIsAnswered : Obligations.AcceptedCommandIsAnswered := by
  intro s w hp hrst
  obtain ⟨t, r, hexec, ht⟩ := exec_total (decode w) (nextInput s)
  obtain ⟨hinputs, -⟩ := inputs_resets_of_exec hexec
  rw [nextInput_inputs] at hinputs
  have hrs : (currentInput s).rst = false := currentInput_rst_of_forall hrst
  have hrt : (currentInput t).rst = false :=
    currentInput_rst_of_forall fun p h => hrst p (List.mem_of_mem_tail (hinputs ▸ h))
  have hru : (currentInput (finishCommand (nextInput t))).rst = false := by
    refine currentInput_rst_of_forall fun p h => hrst p ?_
    rw [finishCommand_inputs, nextInput_inputs, hinputs] at h
    exact List.mem_of_mem_tail (List.mem_of_mem_tail h)
  refine ⟨t, finishCommand (nextInput t), ?_, ?_, ?_, ?_, ?_, ?_⟩
  · rw [step_executing hp, hrs]
    exact hexec
  · rw [rspValid, presented_of_responding ht hrt]
    rfl
  · simp [cmdReady, ht]
  · rw [step_responding ht, hrt]
    rfl
  · rw [rspValid, presented_eq_none (by simp)]
    rfl
  · exact (cmdReady_iff _).2 ⟨hru, finishCommand_phase _⟩

/-! ### Runs of steps -/

theorem runSteps_succ {s t : State} (h : step s = .next t) (n : Nat) : runSteps (n + 1) s = runSteps n t := by
  rw [runSteps, h]

theorem observed_succ {s t : State} (h : step s = .next t) (n : Nat) :
    observed (n + 1) s = (presented t).toList ++ observed n t := by
  rw [observed, h]

/-- A run of `m + n` steps is one of `n` steps after one of `m`. -/
theorem runSteps_add {m : Nat} {s t : State} (h : runSteps m s = .next t) (n : Nat) :
    runSteps (m + n) s = runSteps n t ∧ observed (m + n) s = observed m s ++ observed n t := by
  induction m generalizing s with
  | zero =>
    obtain rfl : t = s := next_inj h
    rw [Nat.zero_add]
    exact ⟨rfl, rfl⟩
  | succ m ih =>
    obtain ⟨u, hu⟩ := step_total s
    rw [runSteps_succ hu] at h
    obtain ⟨hrun, hobs⟩ := ih h
    rw [Nat.succ_add, runSteps_succ hu, observed_succ hu, observed_succ hu, hobs, List.append_assoc]
    exact ⟨hrun, rfl⟩

/-- Settles O41: each idle input is one step that only uses it up. -/
theorem idleEngineHoldsItsState : Obligations.IdleEngineHoldsItsState := by
  intro n
  induction n with
  | zero =>
    intro s _ hin
    rw [runSteps, ← show s.inputs = [] from hin]
  | succ n ih =>
    intro s hp hin
    rw [List.replicate_succ] at hin
    have hcur := currentInput_of_cons hin
    have hstep : step s = .next (nextInput s) := step_idle_wait hp (by rw [hcur]; rfl) (by rw [hcur]; rfl)
    rw [runSteps_succ hstep, ih (nextInput s) hp (by rw [nextInput_inputs, hin, List.tail_cons])]
    rfl

/-! ### The ports refine the sequence of whole commands (R37, R38, R45) -/

/-- What a command leaves does not depend on the protocol's phase or on the host's later inputs. -/
theorem exec_of_sameGenerator {i : Instr} {s v u : State} (hu : exec i s = .next u) (h : SameGenerator s v)
    (hfault : s.fault = v.fault) (hresets : s.resets = v.resets) : exec i v = .next { u with inputs := v.inputs } := by
  obtain ⟨s', v', hs, hv, hphase, ⟨htable, hfront, hrear, hseeded⟩, hfault'⟩ :=
    equalEnginesAnswerAlikeAndStayEqual i s v h
  obtain rfl : s' = u := next_inj (hu.symm.trans hs)
  obtain ⟨-, hresets_s⟩ := inputs_resets_of_exec hs
  obtain ⟨hinputs_v, hresets_v⟩ := inputs_resets_of_exec hv
  rw [hv, htable, hfront, hrear, hseeded, hfault' hfault, hphase, hresets_s, hresets, ← hresets_v, ← hinputs_v]

/-- One action: driven on the ports or as a whole, it leads an idle engine to the same idle state `t`, with the same
responses `rs`, whatever the host drives afterwards. -/
theorem drive_refines_runAction (a : HostAction) (s : State) (hp : s.phase = .idle) :
    ∃ (t : State) (rs : List Response), t.phase = .idle ∧ ∀ rest,
      runAction a { s with inputs := rest } = .next { t with inputs := rest } ∧
      answer a { s with inputs := rest } = rs ∧
      runSteps (drive a).length { s with inputs := drive a ++ rest } = .next { t with inputs := rest } ∧
      observed (drive a).length { s with inputs := drive a ++ rest } = rs := by
  cases a with
  | command w =>
    obtain ⟨u, r, hu, hr⟩ := exec_total (decode w) s
    refine ⟨finishCommand u, [r], rfl, fun rest => ?_⟩
    have hwhole : exec (decode w) { s with inputs := rest } = .next { u with inputs := rest } :=
      exec_of_sameGenerator hu ⟨rfl, rfl, rfl, rfl⟩ rfl rfl
    have haccept : step { s with inputs := drive (.command w) ++ rest } =
        .next (acceptCommand w { s with inputs := PortIn.idle :: PortIn.idle :: rest }) :=
      step_accept ((cmdReady_iff _).2 ⟨rfl, hp⟩) rfl
    have hexec : step (acceptCommand w { s with inputs := PortIn.idle :: PortIn.idle :: rest }) =
        .next { u with inputs := PortIn.idle :: rest } :=
      (step_executing (acceptCommand_phase w _)).trans (exec_of_sameGenerator hu ⟨rfl, rfl, rfl, rfl⟩ rfl rfl)
    have htake : step { u with inputs := PortIn.idle :: rest } = .next { finishCommand u with inputs := rest } :=
      step_responding (s := { u with inputs := PortIn.idle :: rest }) hr
    refine ⟨?_, ?_, ?_, ?_⟩
    · rw [runAction, hwhole]
      rfl
    · rw [answer, responses_cons hwhole, responseOf, hr]
      rfl
    · exact (runSteps_succ haccept 2).trans ((runSteps_succ hexec 1).trans (runSteps_succ htake 0))
    · have hshown : presented { u with inputs := PortIn.idle :: rest } = some r := presented_of_responding hr rfl
      rw [show (drive (.command w)).length = 3 from rfl, observed_succ haccept, observed_succ hexec,
        observed_succ htake, hshown]
      rfl
  | reset =>
    refine ⟨takeReset s, [], rfl, fun rest => ⟨rfl, rfl, ?_, ?_⟩⟩
    · exact runSteps_succ (step_reset rfl) 0
    · exact observed_succ (step_reset rfl) 0
  | wait =>
    have hwait (rest : List PortIn) : step { s with inputs := drive .wait ++ rest } = .next { s with inputs := rest } :=
      step_idle_wait hp rfl rfl
    refine ⟨s, [], hp, fun rest => ⟨rfl, rfl, runSteps_succ (hwait rest) 0, ?_⟩⟩
    exact (observed_succ (hwait rest) 0).trans (by rw [presented_eq_none (by simp [hp])]; rfl)

theorem runActions_cons {a : HostAction} {s t : State} (h : runAction a s = .next t) (as : List HostAction) :
    runActions (a :: as) s = runActions as t ∧ answers (a :: as) s = answer a s ++ answers as t := by
  rw [runActions, answers, h]
  exact ⟨rfl, rfl⟩

/-- Settles O42: action by action, the steps of the ports are one after another the actions' transitions. -/
theorem portsRefineTheCommandSequence : Obligations.PortsRefineTheCommandSequence := by
  intro as rest
  induction as with
  | nil => exact fun s _ => ⟨_, rfl, rfl, rfl⟩
  | cons a as ih =>
    intro s hp
    obtain ⟨u, rs, hu, haction⟩ := drive_refines_runAction a s hp
    obtain ⟨hwhole, hanswer, -, -⟩ := haction rest
    obtain ⟨-, -, hsteps, hobserved⟩ := haction (driveAll as ++ rest)
    obtain ⟨t, hrun, hruns, hobs⟩ := ih u hu
    obtain ⟨hactions, hanswers⟩ := runActions_cons hwhole as
    obtain ⟨hsteps', hobserved'⟩ := runSteps_add hsteps (driveAll as).length
    rw [show driveAll (a :: as) = drive a ++ driveAll as from rfl, List.length_append, List.append_assoc, hactions,
      hanswers, hsteps', hobserved', hobserved, hanswer, hobs]
    exact ⟨t, hrun, hruns, rfl⟩

end Sys2Proof.Machine
end

section
/-! PROOFS. What every step keeps (R13, R16 to R18, R21, R42, R96, R100): a step resets, executes the command in
progress, or leaves all that a command reads. -/

namespace Sys2Proof.Machine

/-- The three effects of a step. Accepting, waiting and taking a response only move the protocol. -/
theorem step_effect {s t : State} (h : step s = .next t) :
    ((currentInput s).rst = true ∧ t = takeReset (nextInput s)) ∨
    (∃ w, (currentInput s).rst = false ∧ s.phase = .executing w ∧ exec (decode w) (nextInput s) = .next t) ∨
    (SameGenerator s t ∧ s.fault = t.fault ∧ ∀ r, t.phase ≠ .responding r) := by
  obtain hreset | ⟨-, -, -, rfl⟩ | ⟨-, hp, -, rfl⟩ | hexec | ⟨r, -, -, rfl⟩ := step_next_cases h
  · exact .inl hreset
  · exact .inr (.inr ⟨⟨rfl, rfl, rfl, rfl⟩, rfl, by simp⟩)
  · exact .inr (.inr ⟨⟨rfl, rfl, rfl, rfl⟩, rfl, by simp [hp]⟩)
  · exact .inr (.inl hexec)
  · exact .inr (.inr ⟨⟨rfl, rfl, rfl, rfl⟩, rfl, by simp⟩)

/-! ### The invariant (R16, R52, R96) -/

theorem responseSound_of_not_responding {s : State} (h : ∀ r, s.phase ≠ .responding r) : ResponseSound s :=
  fun r hr => absurd hr (h r)

/-- Settles O43: the reset state is not seeded and presents no response. -/
theorem resetMeetsTheInvariant : Obligations.ResetMeetsTheInvariant :=
  ⟨fun h => (by cases h), responseSound_of_not_responding fun _ h => (by cases h)⟩

/-- What a command answers is sound: the fault flag tells `SEEDED`, and the word is within range. -/
theorem responseSound_of_exec {i : Instr} {s t : State} (h : exec i s = .next t) : ResponseSound t := by
  intro r hr
  obtain ⟨hrange, -⟩ := wordsAreBelow2Pow31 i s t r h hr
  obtain ⟨seed, -, rfl⟩ | ⟨-, hs, rfl⟩ | ⟨-, hs, rfl⟩ := exec_next_cases h
  · rw [respond_phase] at hr
    cases hr
    exact ⟨rfl, fun hf => (by cases hf), hrange⟩
  · rw [respond_phase] at hr
    cases hr
    exact ⟨by simp [hs], fun hf => (by cases hf), hrange⟩
  · rw [takeException_phase] at hr
    cases hr
    exact ⟨by simp [hs], fun _ => ⟨rfl, rfl⟩, hrange⟩

/-- `INIT` separates the cursors, and `NEXT` moves them together or not at all. -/
theorem separated_of_exec {i : Instr} {s t : State} (h : exec i s = .next t) (hs : s.seeded = true → Separated s) :
    t.seeded = true → Separated t := by
  obtain ⟨seed, -, rfl⟩ | ⟨-, hseeded, rfl⟩ | ⟨-, -, rfl⟩ := exec_next_cases h
  · intro _
    rw [Separated, respond_front, respond_rear, setSeeded_front, setSeeded_rear, seedTable_front, seedTable_rear]
    decide
  · exact fun _ => (hs hseeded).genStep
  · exact hs

/-- Settles O44: a reset leaves nothing to hold, a command establishes the invariant, every other step keeps the
cursors and presents nothing. -/
theorem everyStepKeepsTheInvariant : Obligations.EveryStepKeepsTheInvariant := by
  intro s t ⟨hsep, _⟩ h
  obtain ⟨-, rfl⟩ | ⟨w, -, -, hexec⟩ | ⟨⟨-, hfront, hrear, hseeded⟩, -, hphase⟩ := step_effect h
  · refine ⟨fun hs => ?_, responseSound_of_not_responding (by simp)⟩
    rw [takeReset_seeded] at hs
    cases hs
  · exact ⟨separated_of_exec hexec hsep, responseSound_of_exec hexec⟩
  · refine ⟨fun hs => ?_, responseSound_of_not_responding hphase⟩
    rw [Separated, ← hfront, ← hrear]
    exact hsep (hseeded.trans hs)

/-! ### The flags and `status` (R17, R18, R21) -/

/-- Settles O45: of the commands, only a `NEXT` on an engine not seeded changes `FAULT`, and it sets it. -/
theorem faultIsSticky : Obligations.FaultIsSticky := by
  intro s t h
  obtain ⟨hr, rfl⟩ | ⟨w, hr, hp, hexec⟩ | ⟨-, hfault, -⟩ := step_effect h
  · exact ⟨fun _ _ => hr, fun _ ht => by rw [takeReset_fault] at ht; cases ht⟩
  · have hfault := fault_of_exec hexec
    rw [nextInput_fault, nextInput_seeded] at hfault
    refine ⟨fun hs ht => ?_, fun hs ht => ?_⟩
    · simp [hs, ht] at hfault
    · obtain ⟨hw, hunseeded⟩ : decode w = .next ∧ s.seeded = false := by simpa [hs, ht] using hfault
      exact ⟨hr, hunseeded, w, hp, hw⟩
  · exact ⟨fun hs ht => by simp [hs, ht] at hfault, fun hs ht => by simp [hs, ht] at hfault⟩

/-- Settles O46: of the commands, only an `INIT` changes `SEEDED`, and it sets it. -/
theorem seededIsSetByInitAndClearedByReset : Obligations.SeededIsSetByInitAndClearedByReset := by
  intro s t h
  obtain ⟨hr, rfl⟩ | ⟨w, hr, hp, hexec⟩ | ⟨⟨-, -, -, hseeded⟩, -, -⟩ := step_effect h
  · exact ⟨fun _ _ => hr, fun _ ht => by rw [takeReset_seeded] at ht; cases ht⟩
  · have hseeded := seeded_of_exec hexec
    rw [nextInput_seeded] at hseeded
    refine ⟨fun hs ht => ?_, fun hs ht => ⟨hr, w, ?_⟩⟩
    · simp [hs, ht] at hseeded
    · cases hw : decode w with
      | init seed => exact ⟨seed, hp, rfl⟩
      | next => simp [hs, ht, hw] at hseeded
  · exact ⟨fun hs ht => by simp [hs, ht] at hseeded, fun hs ht => by simp [hs, ht] at hseeded⟩

theorem getLsbD_status (s : State) : (status s).getLsbD 0 = s.seeded ∧ (status s).getLsbD 1 = s.fault := by
  cases hs : s.seeded <;> cases hf : s.fault <;> simp [status, hs, hf]

/-- Settles O47: `status` is made of the two flags, which a step of neither kind leaves. -/
theorem statusShowsTheFlags : Obligations.StatusShowsTheFlags := by
  refine ⟨getLsbD_status, fun s t h hne => ?_⟩
  obtain ⟨hr, -⟩ | ⟨w, -, hp, -⟩ | ⟨⟨-, -, -, hseeded⟩, hfault, -⟩ := step_effect h
  · exact .inl hr
  · exact .inr ⟨w, hp⟩
  · exact absurd (by simp [ports, status, hseeded, hfault]) hne

/-! ### Who writes the table, and systems of engines (R13, R42, R109) -/

/-- What a `NEXT` writes: nothing on an engine not seeded, else the word at `front` and the cursors. -/
theorem next_writes {s t : State} (h : exec .next s = .next t) :
    (∀ i, readWord t i ≠ readWord s i → i = s.front ∧ s.seeded = true) ∧
    (t.front ≠ s.front ∨ t.rear ≠ s.rear → s.seeded = true) := by
  cases hs : s.seeded with
  | true =>
    obtain rfl := next_inj ((exec_next_seeded hs).symm.trans h)
    refine ⟨fun i hi => ⟨?_, rfl⟩, fun _ => rfl⟩
    by_contra hne
    exact hi ((readWord_respond _ _ _ i).trans (readWord_genStep_ne s hne))
  | false =>
    obtain rfl := next_inj ((exec_next_unseeded hs).symm.trans h)
    exact ⟨fun i hi => absurd (readWord_takeException _ s i) hi, fun hne => by simp at hne⟩

/-- Settles O48: with reset and `INIT` set aside, a step that writes is that of a `NEXT`. -/
theorem tableIsWrittenByInitAndNextAlone : Obligations.TableIsWrittenByInitAndNextAlone := by
  intro s t h hr hinit
  obtain ⟨hrst, -⟩ | ⟨w, -, hp, hexec⟩ | ⟨⟨htable, hfront, hrear, -⟩, -, -⟩ := step_effect h
  · rw [hr] at hrst
    cases hrst
  · have hw : decode w = .next := by
      cases hd : decode w with
      | init seed => exact absurd hd (hinit w seed hp)
      | next => rfl
    rw [hw] at hexec
    obtain ⟨hwords, hcursors⟩ := next_writes hexec
    refine ⟨fun i hi => ?_, fun hne => ⟨hcursors hne, w, hp, hw⟩⟩
    obtain ⟨hi, hs⟩ := hwords i hi
    exact ⟨hi, hs, w, hp, hw⟩
  · exact ⟨fun i hi => absurd (readWord_congr htable.symm i) hi, fun hne => by simp [hfront, hrear] at hne⟩

/-- Settles O49: the engine's own step replaces it in the list, and nothing else. -/
theorem enginesShareNothing : Obligations.EnginesShareNothing := by
  intro sys k s hk
  obtain ⟨t, ht⟩ := step_total s
  obtain ⟨hlt, -⟩ := List.getElem?_eq_some_iff.1 hk
  refine ⟨t, { engines := sys.engines.set k t }, ht, by simp only [System.stepEngine, hk, ht], ?_, fun j hj => ?_⟩
  · exact List.getElem?_set_self hlt
  · exact List.getElem?_set_ne hj.symm

end Sys2Proof.Machine
end

section
/-! PROOFS. Sequences of commands (R89 to R91, R99, R113, R117): `NEXT`s before an `INIT` change nothing but `FAULT`,
and `NEXT`s after one are the steps of the generator, answered with their words. -/

namespace Sys2Proof.Machine

/-! ### `NEXT`s on an engine that is not seeded (R99) -/

@[simp] theorem responseOf_takeException (c : Cause) (s : State) :
    responseOf (takeException c s) = [{ fault := true, data := 0#32 }] := by
  rw [responseOf, takeException_phase]

/-- Settles O22: the exception leaves the engine as unseeded as it was, so the next `NEXT` takes it again. -/
theorem nextsBeforeInitAllFault : Obligations.NextsBeforeInitAllFault := by
  intro n
  induction n with
  | zero => exact fun s hs => ⟨rfl, s, rfl, rfl, rfl, rfl, hs, fun h => absurd h (by decide)⟩
  | succ n ih =>
    intro s hs
    have hexec := exec_next_unseeded hs
    obtain ⟨hresponses, t, hrun, htable, hfront, hrear, hseeded, hfault⟩ := ih (takeException .notSeeded s) hs
    rw [List.replicate_succ, responses_cons hexec, runInstrs_cons hexec, hresponses, responseOf_takeException]
    refine ⟨rfl, t, hrun, htable, hfront, hrear, hseeded, fun _ => ?_⟩
    cases n with
    | zero =>
      obtain rfl := next_inj hrun
      rfl
    | succ n => exact hfault (Nat.succ_pos n)

/-! ### Commands on a seeded engine (R113) -/

/-- No command clears `SEEDED`, so on a seeded engine no sequence of commands answers with a fault or records one. -/
theorem runInstrs_of_seeded (is : List Instr) {s : State} (hs : s.seeded = true) :
    (∀ r ∈ responses is s, r.fault = false) ∧ ∃ t, runInstrs is s = .next t ∧ t.fault = s.fault := by
  induction is generalizing s with
  | nil => exact ⟨fun r hr => (by cases hr), s, rfl, rfl⟩
  | cons i is ih =>
    obtain ⟨t, r, hexec, hphase⟩ := exec_total i s
    have ht : t.seeded = true := by rw [seeded_of_exec hexec, hs, Bool.true_or]
    have hfault : t.fault = s.fault := by simp [fault_of_exec hexec, hs]
    have hr : r.fault = false := by simpa [hs] using (response_fault_iff hexec hphase).not
    obtain ⟨hresponses, u, hrun, hfault'⟩ := ih ht
    rw [responses_cons hexec, runInstrs_cons hexec, show responseOf t = [r] by rw [responseOf, hphase]]
    exact ⟨List.forall_mem_cons.2 ⟨hr, hresponses⟩, u, hrun, hfault'.trans hfault⟩

/-- Settles O33: `INIT` answers no fault, keeps `FAULT` and leaves a seeded engine. -/
theorem noFaultAfterInit : Obligations.NoFaultAfterInit := by
  intro seed is s
  obtain ⟨hresponses, t, hrun, hfault⟩ :=
    runInstrs_of_seeded is (s := respond false 0#32 (setSeeded (seedTable seed s))) (by simp)
  rw [responses_cons (exec_init seed s), runInstrs_cons (exec_init seed s), responseOf_respond]
  refine ⟨List.forall_mem_cons.2 ⟨rfl, hresponses⟩, t, hrun, fun hs => ?_⟩
  rw [NoFaultRecorded, hfault, respond_fault, setSeeded_fault, seedTable_fault]
  exact hs

/-- `n` `NEXT`s on a seeded engine with the table and cursors of `u` are `n` steps from `u`, as far as a command can
see, each answered with its word. -/
theorem runInstrs_nexts_of_seeded (n : Nat) {s u : State} (hs : s.seeded = true) (h : SameTableAndCursors s u) :
    responses (List.replicate n .next) s =
      (List.range n).map (fun k => { fault := false, data := (genStep (discardSteps k u)).2 }) ∧
    ∃ t, runInstrs (List.replicate n .next) s = .next t ∧ SameTableAndCursors t (discardSteps n u) ∧
      t.seeded = true ∧ t.fault = s.fault := by
  induction n generalizing s u with
  | zero => exact ⟨rfl, s, rfl, h, hs, rfl⟩
  | succ n ih =>
    have hexec := exec_next_seeded hs
    obtain ⟨hresponses, t, hrun, hsame, hseeded, hfault⟩ :=
      ih (s := respond false (genStep s).2 (genStep s).1) hs h.genStep
    rw [List.replicate_succ, responses_cons hexec, runInstrs_cons hexec, hresponses, responseOf_respond,
      List.range_succ_eq_map, List.map_cons, List.map_map]
    refine ⟨?_, t, hrun, hsame, hseeded, hfault⟩
    rw [h.genStep_output_eq]
    rfl

/-- `INIT` and `n` `NEXT`s are the warm-up and `n` more steps. -/
theorem runInstrs_init_nexts (seed : Seed) (n : Nat) (s : State) :
    responses (.init seed :: List.replicate n .next) s = { fault := false, data := 0#32 } ::
      (List.range n).map (fun k => { fault := false, data := (genStep (discardSteps k (seedTable seed s))).2 }) ∧
    ∃ t, runInstrs (.init seed :: List.replicate n .next) s = .next t ∧
      SameTableAndCursors t (discardSteps n (seedTable seed s)) ∧ t.seeded = true ∧ t.fault = s.fault := by
  have hinit := exec_init seed s
  obtain ⟨hresponses, t, hrun, hsame, hseeded, hfault⟩ :=
    runInstrs_nexts_of_seeded n (s := respond false 0#32 (setSeeded (seedTable seed s))) (u := seedTable seed s)
      (by simp) ⟨rfl, rfl, rfl⟩
  rw [responses_cons hinit, runInstrs_cons hinit, hresponses, responseOf_respond]
  exact ⟨rfl, t, hrun, hsame, hseeded, by simpa using hfault⟩

/-- Settles O29: the cursors are (3, 0) after `INIT`, and each `NEXT` adds one to both. -/
theorem cursorsAfterInitAndNexts : Obligations.CursorsAfterInitAndNexts := by
  intro seed n s
  obtain ⟨-, t, hrun, ⟨-, hfront, hrear⟩, hseeded, hfault⟩ := runInstrs_init_nexts seed n s
  refine ⟨t, hrun, ?_, ?_, hseeded, hfault⟩
  · rw [hfront, val_discardSteps_front, seedTable_front]
    rfl
  · rw [hrear, val_discardSteps_rear, seedTable_rear]
    exact congrArg (· % 31) (Nat.zero_add n)

/-! ### A turn of words shows the table (R117) -/

/-- Settles O32: the word that step `k + 1` writes is the sum its response is made of, and it stands until the end. -/
theorem aTurnOfWordsShowsTheTable : Obligations.ATurnOfWordsShowsTheTable := by
  intro s hs
  obtain ⟨hresponses, t, hrun, ⟨htable, hfront, hrear⟩, -, -⟩ :=
    runInstrs_nexts_of_seeded 31 hs (u := s) ⟨rfl, rfl, rfl⟩
  refine ⟨t, hrun, ?_, ?_, fun k i hk hi => ?_⟩
  · refine Fin.ext ?_
    rw [hfront, val_discardSteps_front]
    omega
  · refine Fin.ext ?_
    rw [hrear, val_discardSteps_rear]
    omega
  · obtain rfl : i = (discardSteps k s).front := Fin.ext (hi.trans (val_discardSteps_front k s).symm)
    rw [hresponses, readWord_congr htable, readWord_discardSteps_after hk (le_refl 31), ← outputOf_eq_extractLsb']
    simp [hk, genStep_output, add64]

/-! ### The lagged-Fibonacci form (R91) -/

/-- The engine after `n` steps from the expansion, told by the sequence: the table holds the 31 values `y (n + 3)` to
`y (n + 33)`, each at its number modulo 31, and the cursors select the oldest of them and the one 28 places after it. -/
def HoldsLagged (y : Nat → Word) (n : Nat) (s : State) : Prop :=
  s.front.val = (n + 3) % 31 ∧ s.rear.val = n % 31 ∧
  ∀ k, n + 3 ≤ k → k ≤ n + 33 → ∀ i : Cursor, i.val = k % 31 → readWord s i = y k

/-- The expansion, with the second names of its first three words. -/
theorem holdsLagged_zero {seed : Seed} {y : Nat → Word} (hy : IsLagged seed y) (s : State) :
    HoldsLagged y 0 (setCursors front0 rear0 (expand seed s)) := by
  obtain ⟨hzero, hsucc, hnames, -⟩ := hy
  have hexpand (i : Nat) (hi : i < 31) : y i = lcg^[i] (zext64 seed) := by
    induction i with
    | zero => exact hzero
    | succ i ih =>
      rw [hsucc i (by omega), ih (by omega), Function.iterate_succ_apply']
      rfl
  refine ⟨rfl, rfl, fun k hk hk' i hi => ?_⟩
  rw [readWord_setCursors, readWord_expand, ← hexpand i i.isLt, hi]
  obtain hlt | ⟨j, hj, rfl⟩ : k < 31 ∨ ∃ j < 3, k = 31 + j := by
    obtain hlt | hge := Nat.lt_or_ge k 31
    · exact .inl hlt
    · exact .inr ⟨k - 31, by omega, by omega⟩
  · rw [Nat.mod_eq_of_lt hlt]
  · rw [hnames j hj, Nat.add_mod_left, Nat.mod_eq_of_lt (by omega)]

/-- The sum of a step is the next value of the sequence. -/
theorem HoldsLagged.sum {seed : Seed} {y : Nat → Word} (hy : IsLagged seed y) {n : Nat} {s : State}
    (h : HoldsLagged y n s) : readWord s s.front + readWord s s.rear = y (n + 34) := by
  obtain ⟨-, -, -, hlag⟩ := hy
  obtain ⟨hfront, hrear, hwords⟩ := h
  rw [hlag (n + 34) (by omega), hwords (n + 3) (by omega) (by omega) s.front hfront,
    hwords (n + 31) (by omega) (by omega) s.rear (by omega)]
  rfl

/-- A step writes the next value over the oldest, whose number is 31 less. -/
theorem HoldsLagged.genStep {seed : Seed} {y : Nat → Word} (hy : IsLagged seed y) {n : Nat} {s : State}
    (h : HoldsLagged y n s) : HoldsLagged y (n + 1) (genStep s).1 := by
  have hsum := h.sum hy
  obtain ⟨hfront, hrear, hwords⟩ := h
  refine ⟨?_, ?_, fun k hk hk' i hi => ?_⟩
  · rw [genStep_front, val_inc31]
    omega
  · rw [genStep_rear, val_inc31]
    omega
  · rw [readWord_genStep]
    by_cases hlast : k = n + 34
    · rw [if_pos (Fin.ext (by omega)), hsum, hlast]
    · have hne : i ≠ s.front := fun e => by
        rw [e] at hi
        omega
      rw [if_neg hne, hwords k (by omega) (by omega) i hi]

theorem HoldsLagged.discardSteps {seed : Seed} {y : Nat → Word} (hy : IsLagged seed y) {n : Nat} {s : State}
    (h : HoldsLagged y n s) (m : Nat) : HoldsLagged y (n + m) (discardSteps m s) := by
  induction m with
  | zero => exact h
  | succ m ih =>
    rw [discardSteps_succ]
    exact ih.genStep hy

/-- Settles O30: the warm-up makes 310 values after the first 34, and each `NEXT` makes and answers the next one. -/
theorem laggedFibonacciForm : Obligations.LaggedFibonacciForm := by
  intro seed y hy m s
  obtain ⟨hresponses, t, hrun, ⟨htable, -, -⟩, -, -⟩ := runInstrs_init_nexts seed m s
  have hwarm : HoldsLagged y 310 (seedTable seed s) := by
    have h := (holdsLagged_zero hy s).discardSteps hy 310
    rwa [seedTable, warmup_eq]
  have hword (k : Nat) : (genStep (discardSteps k (seedTable seed s))).2 = ((y (344 + k)).extractLsb' 1 31).setWidth 32 := by
    rw [genStep_output, (hwarm.discardSteps hy k).sum hy, outputOf_eq_extractLsb', show 310 + k + 34 = 344 + k by omega]
  refine ⟨by simp only [hresponses, hword], t, hrun, fun n hn hn' i hi => ?_⟩
  obtain ⟨-, -, hwords⟩ := hwarm.discardSteps hy m
  rw [readWord_congr htable, hwords n (by omega) (by omega) i hi]

end Sys2Proof.Machine
end
